-- ==== Sys2Proof/Word.lean ====
section
/-! DEFINITION. The word types of the block and the pixel record. -/

namespace Sys2Proof

/-- One byte of a stream, of BLK or of a pixel channel (R63). -/
abbrev Byte := BitVec 8

/-- One 32-bit word: a header register, a CSR value, a raster coordinate (R7). -/
abbrev Word := BitVec 32

/-- A raster pixel: four unsigned 8-bit channels, each its own field of the port (R10, R88). -/
structure Pixel where
  /-- red -/
  r : Byte
  /-- green -/
  g : Byte
  /-- blue -/
  b : Byte
  /-- alpha -/
  a : Byte
deriving DecidableEq, Repr

end Sys2Proof
end

