-- ==== Sys2Proof/Config.lean ====
section
/-! DEFINITION. What is fixed for the machine: the constants of 00_scope.md R5, the format table of
R6, and the values the spec leaves open, as constants with no body. -/

namespace Sys2Proof.Config

/-- `MAGIC_WORD`, the bytes `00 63 74 65` assembled little-endian (R5, R83). -/
abbrev magicWord : Word := 0x65746300#32

/-- `HDR_FIXED`: size in bytes of the seven header fields (R5). -/
abbrev hdrFixed : Word := 28#32

/-- `HDR_CANON`: the payload offset ENCODE always writes (R5). -/
abbrev hdrCanon : Word := 128#32

/-- `BLOCK`: block edge in pixels (R5). -/
abbrev blockEdge : Nat := 8

/-- `BLOCK_BYTES`: payload bytes per block (R5). -/
abbrev blockBytes : Nat := 64

/-- A pixel bit-packing scheme (R12). This version has one (R2, R6). -/
inductive Variant where
  /-- one byte per pixel: 4 bits of luminance, 4 bits of alpha -/
  | a8
deriving DecidableEq, Repr

/-- `FORMAT_TABLE`: the map from format identifier to variant, one row in this version (R6, R84). -/
def formatTable : List (Word × Variant) := [(8#32, .a8)]

/-- FREE VALUE (log 8): `bits(resolve(id))` where `resolve(id)` is `none`. R138 and R162 use the
expression only where the identifier resolves, so the spec gives it no value elsewhere. -/
opaque unresolvedBits : Word → Word

/-- FREE VALUE (log 5): what BLK holds after the `n`-th assertion of `rst` in a run. R39 calls it
unspecified: any 64 byte values. -/
opaque blkAfterReset : Nat → Vector Byte 64

end Sys2Proof.Config
end

