-- ==== Sys2Proof/Syntax.lean ====
section
/-! DEFINITION. The operations of the block (one constructor per row of spec/opcode_table.json), the
code words that select them, and the moves of the five agents of 00_scope.md R8. -/

namespace Sys2Proof

/-- The operations. No row of the table has an operand field (R80): the operands are registers,
counters and what the ports answer. -/
inductive Instr where
  /-- NOP, CMD value 0 (R110) -/
  | nop
  /-- DECODE, CMD value 1 (R111) -/
  | decode
  /-- ENCODE, CMD value 2 (R112) -/
  | encode
  /-- FMT.A8, format identifier 8 (R84, R195, R208) -/
  | fmtA8
  /-- STEP.D_HDR, PHASE code 1 (R131) -/
  | stepDHdr
  /-- STEP.D_PAD, PHASE code 2 (R143) -/
  | stepDPad
  /-- STEP.D_FILL, PHASE code 3 (R190) -/
  | stepDFill
  /-- STEP.D_DRAIN, PHASE code 4 (R192) -/
  | stepDDrain
  /-- STEP.E_HDR, PHASE code 5 (R161) -/
  | stepEHdr
  /-- STEP.E_GATHER, PHASE code 6 (R205) -/
  | stepEGather
  /-- STEP.E_EMIT, PHASE code 7 (R210) -/
  | stepEEmit
deriving DecidableEq, Repr

/-- The three code spaces of the opcode table (30_encoding.md, opening paragraph). -/
inductive CodeSpace where
  /-- format `CMD32`: the 32-bit value written to CSR CMD (R80) -/
  | command
  /-- format `FMTID`: the 32-bit format identifier (R84) -/
  | format
  /-- format `PHASE4`: the 4-bit PHASE code (R31) -/
  | phase
deriving DecidableEq, Repr

/-- One code word, in its space. -/
inductive CodeWord where
  /-- a value written to CSR CMD -/
  | cmd (v : Word)
  /-- a format identifier -/
  | fmt (v : Word)
  /-- a PHASE code -/
  | phase (c : BitVec 4)
deriving DecidableEq, Repr

/-- How wide a host access to the CSR space is; only whole words are defined (R60). -/
inductive AccessSize where
  /-- 8 bits -/
  | byte
  /-- 16 bits -/
  | half
  /-- 32 bits -/
  | word
deriving DecidableEq, Repr

/-- An answer of the byte source to one IN transfer (R52). -/
inductive InAnswer where
  /-- the next byte of the stream -/
  | byte (b : Byte)
  /-- the stream cannot supply a byte: its end, or a transport error -/
  | fail
deriving DecidableEq, Repr

/-- An answer of the byte sink to one OUT transfer (R55). -/
inductive OutAnswer where
  /-- the byte is accepted as the next byte of the output -/
  | ok
  /-- the sink cannot accept it -/
  | fail
deriving DecidableEq, Repr

/-- What a byte sink will answer: a list of answers, then one answer for ever ("accept all",
"accept n then FAIL", R97). -/
structure Sink where
  /-- the answers to the next transfers, the next one first -/
  answers : List OutAnswer
  /-- the answer to every transfer after those -/
  thereafter : OutAnswer
deriving DecidableEq, Repr

/-- What the host can do (R97, R116, R117, R250). -/
inductive HostAct where
  /-- read the CSR space at a byte offset (R116) -/
  | csrRead (off : Word) (size : AccessSize)
  /-- write the CSR space at a byte offset (R117) -/
  | csrWrite (off : Word) (size : AccessSize) (v : Word)
  /-- assert `rst` (R250) -/
  | rstAssert
  /-- release `rst` (R250) -/
  | rstRelease
  /-- repeat `RD STATUS` until BUSY = 0 (R97) -/
  | waitIdle
deriving DecidableEq, Repr

/-- One move of one agent (R8). The list of moves to come is part of the state: R67 fixes no order
between the host and the sequencer, so every list is allowed (log 1). -/
inductive Turn where
  /-- the sequencer takes its next step: the transfer it offers is answered (R66, R72) -/
  | sequencer
  /-- the host acts on the CSR space or on `rst` -/
  | host (a : HostAct)
  /-- a byte source with these answers is attached to IN (R255 item 2, R258) -/
  | source (answers : List InAnswer)
  /-- a byte sink is attached to OUT (R256 item 4) -/
  | sink (k : Sink)
  /-- an agent outside the block writes a pixel into the raster (R256 item 3, R257) -/
  | raster (x y : Word) (px : Pixel)
deriving DecidableEq, Repr

/-- One thing an observer on the ports sees (R54, R63, R66): a transfer, or a host CSR read with the
value it returned. -/
inductive Event where
  /-- an IN transfer answered with a byte -/
  | inByte (b : Byte)
  /-- an IN transfer answered `Fail` -/
  | inFail
  /-- an OUT transfer carrying this byte, accepted -/
  | outOk (b : Byte)
  /-- an OUT transfer carrying this byte, refused -/
  | outFail (b : Byte)
  /-- a raster write -/
  | rasWrite (x y : Word) (px : Pixel)
  /-- a raster read and its answer -/
  | rasRead (x y : Word) (px : Pixel)
  /-- a host CSR read and the value returned -/
  | csrRead (off : Word) (v : Word)
deriving DecidableEq, Repr

end Sys2Proof
end

