-- ==== Sys2Proof/WellFormed.lean ====
section
/-! DEFINITION. Well-formedness. No row of the opcode table has an operand, so every `Instr` is
well formed; what can be ill formed is a code word (R80, R84, R31) and a host access (R60). -/

namespace Sys2Proof

/-- No instruction has an operand field to check (R80). -/
def Instr.wf : Instr → Bool
  | .nop | .decode | .encode | .fmtA8
  | .stepDHdr | .stepDPad | .stepDFill | .stepDDrain
  | .stepEHdr | .stepEGather | .stepEEmit => true

/-- The code words that stand for an operation: three commands (R80), one format identifier (R84),
seven step kinds (R31). -/
def CodeWord.wf : CodeWord → Bool
  | .cmd v => v.ule 2#32
  | .fmt v => v == 8#32
  | .phase c => (1#4).ule c && c.ule 7#4

/-- An access the CSR space defines: a whole word, aligned, at an offset from 0x00 to 0x24 (R60). -/
def csrAccessWf (off : Word) (size : AccessSize) : Bool :=
  size == .word && off.extractLsb' 0 2 == 0#2 && off.ule 0x24#32

/-- A host action inside the CSR space the spec defines (R60). -/
def HostAct.wf : HostAct → Bool
  | .csrRead off size => csrAccessWf off size
  | .csrWrite off size _ => csrAccessWf off size
  | .rstAssert | .rstRelease | .waitIdle => true

end Sys2Proof
end

