-- ==== Sys2Proof/Decode.lean ====
section
/-! DEFINITION. The codes (R31, R80, R84), the decoder from code words and from their bytes, total
and rejecting by name, and the encoder. -/

namespace Sys2Proof

/-- PHASE code 0: the block waits for a command (R31). -/
@[simp] abbrev Phase.idle : BitVec 4 := 0#4
/-- PHASE code 1 (R31). -/
@[simp] abbrev Phase.dHdr : BitVec 4 := 1#4
/-- PHASE code 2 (R31). -/
@[simp] abbrev Phase.dPad : BitVec 4 := 2#4
/-- PHASE code 3 (R31). -/
@[simp] abbrev Phase.dFill : BitVec 4 := 3#4
/-- PHASE code 4 (R31). -/
@[simp] abbrev Phase.dDrain : BitVec 4 := 4#4
/-- PHASE code 5 (R31). -/
@[simp] abbrev Phase.eHdr : BitVec 4 := 5#4
/-- PHASE code 6 (R31). -/
@[simp] abbrev Phase.eGather : BitVec 4 := 6#4
/-- PHASE code 7 (R31). -/
@[simp] abbrev Phase.eEmit : BitVec 4 := 7#4

/-- Why a code word stands for no operation. -/
inductive DecodeError where
  /-- a CMD value other than 0, 1, 2 (R91, R113) -/
  | reservedCommand (v : Word)
  /-- a format identifier other than 8 (R84, R91) -/
  | unknownFormat (v : Word)
  /-- PHASE code 0: an idle block takes no step (R120) -/
  | idlePhase
  /-- PHASE codes 8 to 15 (R31) -/
  | reservedPhase (c : BitVec 4)
  /-- a byte sequence that is not as long as the words of its space -/
  | wrongLength
deriving DecidableEq, Repr

/-- The decoder: which operation a code word stands for. All 32 bits of a command and of a format
identifier are compared (R80, R84). -/
def decodeCode : CodeWord → Except DecodeError Instr
  | .cmd v =>
    if v = 0#32 then .ok .nop
    else if v = 1#32 then .ok .decode
    else if v = 2#32 then .ok .encode
    else .error (.reservedCommand v)
  | .fmt v => if v = 8#32 then .ok .fmtA8 else .error (.unknownFormat v)
  | .phase c =>
    if c = Phase.idle then .error .idlePhase
    else if c = Phase.dHdr then .ok .stepDHdr
    else if c = Phase.dPad then .ok .stepDPad
    else if c = Phase.dFill then .ok .stepDFill
    else if c = Phase.dDrain then .ok .stepDDrain
    else if c = Phase.eHdr then .ok .stepEHdr
    else if c = Phase.eGather then .ok .stepEGather
    else if c = Phase.eEmit then .ok .stepEEmit
    else .error (.reservedPhase c)

/-- `u32(b0, b1, b2, b3)`: little-endian assembly of four bytes in stream order (R10, R82). -/
def u32 (b0 b1 b2 b3 : Byte) : Word := b3 ++ b2 ++ b1 ++ b0

/-- Byte `j` of a 32-bit value, `v[8j+7 : 8j]` (R82). -/
def byteOf (v : Word) (j : Nat) : Byte := v.extractLsb' (8 * j) 8

/-- The decoder on bytes: the four bytes of a 32-bit code, least significant first (R61), or one byte
whose low half is a PHASE code. Total on any bytes. -/
def decodeBytes : CodeSpace → List Byte → Except DecodeError Instr
  | .command, [b0, b1, b2, b3] => decodeCode (.cmd (u32 b0 b1 b2 b3))
  | .format, [b0, b1, b2, b3] => decodeCode (.fmt (u32 b0 b1 b2 b3))
  | .phase, [b] =>
    if b.extractLsb' 4 4 = 0#4 then decodeCode (.phase (b.extractLsb' 0 4)) else .error .wrongLength
  | _, _ => .error .wrongLength

/-- The encoder: the code word of an operation (R31, R80, R84). -/
def encode : Instr → CodeWord
  | .nop => .cmd 0#32
  | .decode => .cmd 1#32
  | .encode => .cmd 2#32
  | .fmtA8 => .fmt 8#32
  | .stepDHdr => .phase Phase.dHdr
  | .stepDPad => .phase Phase.dPad
  | .stepDFill => .phase Phase.dFill
  | .stepDDrain => .phase Phase.dDrain
  | .stepEHdr => .phase Phase.eHdr
  | .stepEGather => .phase Phase.eGather
  | .stepEEmit => .phase Phase.eEmit

/-- The space a code word belongs to. -/
def CodeWord.space : CodeWord → CodeSpace
  | .cmd _ => .command
  | .fmt _ => .format
  | .phase _ => .phase

/-- The bytes of a code word, the inverse of the reading of `decodeBytes`. -/
def CodeWord.bytes : CodeWord → List Byte
  | .cmd v => [byteOf v 0, byteOf v 1, byteOf v 2, byteOf v 3]
  | .fmt v => [byteOf v 0, byteOf v 1, byteOf v 2, byteOf v 3]
  | .phase c => [0#4 ++ c]

/-- The answer of a decoding as an option. -/
def okOnly : Except DecodeError Instr → Option Instr
  | .ok i => some i
  | .error _ => none

/-- The code word that stands in `nbits` bits `w` of the opcode table's numbering: up to eight bits are
a PHASE code; 32 bits are a command word, or else the format identifier 8. The two 32-bit spaces have no
code in common, so the order does not matter. -/
def tableCode (nbits w : Nat) : Option CodeWord :=
  if nbits ≤ 8 then
    if w < 16 then some (.phase (BitVec.ofNat 4 w)) else none
  else if nbits = 32 ∧ w < 2 ^ 32 then
    if w = 8 then some (.fmt (BitVec.ofNat 32 w)) else some (.cmd (BitVec.ofNat 32 w))
  else none

/-- The instruction the decoder reads from an opcode-table word: its bytes are laid out least
significant first and given to `decodeBytes`. -/
def decodeTableWord (nbits w : Nat) : Option Instr :=
  match tableCode nbits w with
  | some c => okOnly (decodeBytes c.space c.bytes)
  | none => none

end Sys2Proof
end

