-- ==== Sys2Proof/Machine/State.lean ====
section
/-! DEFINITION. The state of the block and of the agents around it, the reasons a step can stop, and
the state after reset. -/

namespace Sys2Proof.Machine

/-- Why a step stops. -/
inductive Fault where
  /-- Raised by `step` on a sequencer turn whose PHASE code is 8 to 15. R31: "never taken". Safe: the
  machine stops where the spec gives no step, and no reachable state has such a code. -/
  | reservedPhase (code : BitVec 4)
deriving DecidableEq, Repr

/-- Why an operation has no meaning. -/
inductive Refusal where
  /-- Kept for an operation whose arm in `exec` has no meaning yet; no arm answers it. Safe. -/
  | notModelled (mnemonic : String)
deriving DecidableEq, Repr

/-- The raster as (address, byte) pairs. Addresses strictly rise and no listed byte equals what an
unlisted address reads as (`Memory.wf`), so equal rasters are equal lists. Log 6 says which address
stands for which channel of which pixel. -/
abbrev Memory := List Host.Cell

/-- Everything the spec gives the block (R20), then its reset input, the ports' other ends, the moves
to come, and two fields of the model's own. INVENTORY.md lists each with its rule. -/
structure State where
  /-- MAGIC (R22) -/
  magic : Word
  /-- FMTID (R23) -/
  fmtid : Word
  /-- WIDTH (R24) -/
  width : Word
  /-- HEIGHT (R24) -/
  height : Word
  /-- PIXBITS (R25) -/
  pixbits : Word
  /-- PAYOFF (R27) -/
  payoff : Word
  /-- PHASE (R29, R31) -/
  phase : BitVec 4
  /-- DONE (R29) -/
  done : Bool
  /-- ERRCODE (R29, R220) -/
  errcode : BitVec 4
  /-- DIR (R29): false for DECODE, true for ENCODE -/
  dir : Bool
  /-- ACC, the field accumulator (R33) -/
  acc : Word
  /-- HCNT, the header byte counter (R34) -/
  hcnt : BitVec 7
  /-- SKIP, the padding bytes left (R35) -/
  skip : Word
  /-- BX, the block column (R36) -/
  bX : BitVec 29
  /-- BY, the block row (R36) -/
  bY : BitVec 29
  /-- IDX, the traversal index (R36) -/
  idx : BitVec 6
  /-- BLK[0..63], the block buffer (R37) -/
  blk : Vector Byte 64
  /-- the input wire `rst`: true while asserted (R250) -/
  rst : Bool
  /-- the answers the byte source will give, the next one first; after them `Fail` (R51, R52) -/
  source : List InAnswer
  /-- the answers the byte sink will give (R55) -/
  sink : Sink
  /-- the raster (R56) -/
  raster : Memory
  /-- the agents' moves to come, the next one first (R8, R67; log 1) -/
  turns : List Turn
  /-- the model's own: what an observer on the ports has seen, newest first (log 7) -/
  trace : List Event
  /-- the model's own: how many free values have been drawn (log 5) -/
  draws : Nat
deriving DecidableEq, Repr

/-- The machine right after reset (R39, R250): every register and counter 0, PHASE = IDLE. BLK is
unspecified there and is 64 zero bytes here (log 4). `rst` is released (log 3), nothing is attached to
IN, the sink accepts all, no move is to come (logs 1, 2). -/
def State.reset : State where
  magic := 0#32
  fmtid := 0#32
  width := 0#32
  height := 0#32
  pixbits := 0#32
  payoff := 0#32
  phase := Phase.idle
  done := false
  errcode := 0#4
  dir := false
  acc := 0#32
  hcnt := 0#7
  skip := 0#32
  bX := 0#29
  bY := 0#29
  idx := 0#6
  blk := Vector.replicate 64 0#8
  rst := false
  source := []
  sink := ⟨[], .ok⟩
  raster := []
  turns := []
  trace := []
  draws := 0

end Sys2Proof.Machine
end

