-- ==== Sys2Proof/Machine/Operands.lean ====
section
/-! DEFINITION. The values the steps compute: field assembly (R33, R82), the format table lookup (R6),
the traversal table and the coordinates (R89, R175 to R180), the payload position (R86), the A8
extractor and packer (R195, R208), and the header bytes ENCODE writes (R162). -/

namespace Sys2Proof.Machine

/-- `ACC[8j+7 : 8j] <- b`, the other 24 bits kept (R33). -/
def insertByte (acc : Word) (j : Nat) (b : Byte) : Word :=
  if j = 0 then acc.extractLsb' 8 24 ++ b
  else if j = 1 then acc.extractLsb' 16 16 ++ b ++ acc.extractLsb' 0 8
  else if j = 2 then acc.extractLsb' 24 8 ++ b ++ acc.extractLsb' 0 16
  else b ++ acc.extractLsb' 0 24

/-- `v mod 8 = 0`, that is `v[2:0] = 0` (R141, R197). -/
def multipleOf8 (v : Word) : Bool := v.extractLsb' 0 3 == 0#3

/-- `v / 8`, that is `v[31:3]`, 29 bits (R197). -/
def div8 (v : Word) : BitVec 29 := v.extractLsb' 3 29

/-- `resolve(id)`: the format table lookup (R6, R11). -/
def resolve (id : Word) : Option Config.Variant :=
  (Config.formatTable.find? (fun row => row.1 == id)).map (·.2)

/-- `bits(variant)`: the declared bit length (R5, R11, R84). -/
def Variant.bits : Config.Variant → Word
  | .a8 => 8#32

/-- `bits(resolve(id))`; a free value where `id` does not resolve, which no rule reaches (log 8). -/
def declaredBits (id : Word) : Word :=
  match resolve id with
  | some v => Variant.bits v
  | none => Config.unresolvedBits id

/-- `unpackA8(v)`: luminance `v[7:4]` in R, G and B, alpha `{v[3:0], 0000}`: the high and the low
half of the byte (R195, R12). -/
def unpackA8 (v : Byte) : Pixel :=
  let l : Byte := 0#4 ++ v.extractLsb' 4 4
  { r := l, g := l, b := l, a := v.extractLsb' 0 4 ++ 0#4 }

/-- `packA8(px)`: `((S / 3) << 4) + A / 16`, the low 8 bits, with `S` the exact sum of R, G, B:
luminance to the high half, alpha to the low half (R208, R12). -/
def packA8 (px : Pixel) : Byte :=
  let lum := (px.r.toNat + px.g.toNat + px.b.toNat) / 3
  BitVec.ofNat 8 ((lum <<< 4) + px.a.toNat / 16)

/-- The unpack function of a variant (R6, R84). -/
def Variant.unpack : Config.Variant → Byte → Pixel
  | .a8 => unpackA8

/-- The pack function of a variant (R6, R84). -/
def Variant.pack : Config.Variant → Pixel → Byte
  | .a8 => packA8

/-- The position `sel` of one of the three offset lists of R176, scaled by `size` (4, 2, 1): positions
0 to 3 are `(0, size)`, `(size, size)`, `(0, 0)`, `(size, 0)`. -/
def offsetAt (size : BitVec 3) (sel : Nat) : BitVec 3 × BitVec 3 :=
  if sel = 0 then (0#3, size)
  else if sel = 1 then (size, size)
  else if sel = 2 then (0#3, 0#3)
  else (size, 0#3)

/-- `T(i) = outer[o] + middle[m] + inner[n]` with `i = 16·o + 4·m + n`: the pair `(dx, dy)`
(R89, R175, R176). -/
def traversal (i : BitVec 6) : BitVec 3 × BitVec 3 :=
  let o := offsetAt 4#3 (i.toNat / 16)
  let m := offsetAt 2#3 (i.toNat / 4 % 4)
  let n := offsetAt 1#3 (i.toNat % 4)
  (o.1 + m.1 + n.1, o.2 + m.2 + n.2)

/-- `idx(dx, dy)`, the inverse of `T`:
`i = { ~dy[2], dx[2], ~dy[1], dx[1], ~dy[0], dx[0] }` (R89, R177). -/
def travIndex (dx dy : BitVec 3) : BitVec 6 :=
  (~~~dy).extractLsb' 2 1 ++ dx.extractLsb' 2 1 ++ (~~~dy).extractLsb' 1 1
    ++ dx.extractLsb' 1 1 ++ (~~~dy).extractLsb' 0 1 ++ dx.extractLsb' 0 1

/-- `8·B + d`, the concatenation `{ B[28:0], d[2:0] }` (R180). -/
def coord (b : BitVec 29) (d : BitVec 3) : Word := b ++ d

/-- The raster coordinate of traversal index `i` of block `(bx, by)` (R180). -/
def pixelAt (bx by' : BitVec 29) (i : BitVec 6) : Word × Word :=
  (coord bx (traversal i).1, coord by' (traversal i).2)

/-- `p(x, y) = 64·((HB − 1 − y/8)·WB + x/8) + idx(x mod 8, y mod 8)`: the payload position of a raster
pixel, for an image of the given width and height (R86). A number, never formed by the block (R197). -/
def payloadPos (width height x y : Word) : Nat :=
  64 * (((div8 height).toNat - 1 - (div8 y).toNat) * (div8 width).toNat + (div8 x).toNat)
    + (travIndex (x.extractLsb' 0 3) (y.extractLsb' 0 3)).toNat

/-- The number of the block `(bx, by)` in file order (R86, R179). -/
def groupOf (width height : Word) (bx by' : BitVec 29) : Nat :=
  ((div8 height).toNat - 1 - by'.toNat) * (div8 width).toNat + bx.toNat

/-- BLK[i] (R11). -/
def blkGet (blk : Vector Byte 64) (i : BitVec 6) : Byte := blk[i.toNat]'i.isLt

/-- BLK[i] <- b (R11). -/
def blkSet (blk : Vector Byte 64) (i : BitVec 6) (b : Byte) : Vector Byte 64 :=
  blk.set i.toNat b i.isLt

/-- `F(n)`, the 32-bit field number `n` of the header ENCODE writes (R162); the fields from 7 on are
the padding, 100 zero bytes (R12). -/
def headerField (fmtid width height : Word) (n : Nat) : Word :=
  if n = 0 then Config.magicWord
  else if n = 1 then fmtid
  else if n = 2 then width
  else if n = 3 then height
  else if n = 4 then declaredBits fmtid
  else if n = 5 then 0#32
  else if n = 6 then Config.hdrCanon
  else 0#32

/-- `hdr_byte(k) = F(k / 4)[8(k mod 4)+7 : 8(k mod 4)]` (R162). -/
def headerByte (fmtid width height : Word) (k : Nat) : Byte :=
  byteOf (headerField fmtid width height (k / 4)) (k % 4)

end Sys2Proof.Machine
end

