-- ==== Sys2Proof/Machine/Flags.lean ====
section
/-! DEFINITION. The status view, the output wires, the error codes, and the views of what the ports
have carried. None of them is stored (R30, R32). -/

namespace Sys2Proof.Machine

/-- BUSY: PHASE ≠ IDLE (R30). -/
def State.busy (s : State) : Bool := s.phase != Phase.idle

/-- ERR: ERRCODE ≠ 0 (R30). -/
def State.err (s : State) : Bool := s.errcode != 0#4

/-- The output wires `(busy, done, err)` (R32). -/
def State.wires (s : State) : Bool × Bool × Bool := (s.busy, s.done, s.err)

/-- STATUS: `{ 20 zero bits, PHASE, ERRCODE, DIR, ERR, DONE, BUSY }` (R30, R116). -/
def State.status (s : State) : Word :=
  0#20 ++ s.phase ++ s.errcode ++ BitVec.ofBool s.dir ++ BitVec.ofBool s.err
    ++ BitVec.ofBool s.done ++ BitVec.ofBool s.busy

/-- The seven errors (R220). -/
inductive Error where
  /-- R221 -/
  | ioError
  /-- R222 -/
  | invalidHeader
  /-- R223 -/
  | unsupportedFormat
  /-- R224 -/
  | payloadStartsTooSoon
  /-- R225 -/
  | pixelLengthInvalid
  /-- R226 -/
  | widthNotMultipleOf8
  /-- R227 -/
  | heightNotMultipleOf8
deriving DecidableEq, Repr

/-- `code(E)` (R220). -/
def Error.code : Error → BitVec 4
  | .ioError => 1#4
  | .invalidHeader => 2#4
  | .unsupportedFormat => 3#4
  | .payloadStartsTooSoon => 4#4
  | .pixelLengthInvalid => 5#4
  | .widthNotMultipleOf8 => 6#4
  | .heightNotMultipleOf8 => 7#4

/-- The values an error carries, read from the registers R220 names: nothing is copied anywhere
(R228). -/
def State.errorInfo (s : State) : Error → List Word
  | .ioError => []
  | .invalidHeader => [s.magic]
  | .unsupportedFormat => [s.fmtid]
  | .payloadStartsTooSoon => [s.payoff]
  | .pixelLengthInvalid => [s.pixbits, s.fmtid]
  | .widthNotMultipleOf8 => [s.width]
  | .heightNotMultipleOf8 => [s.height]

/-- The byte an event hands to the sink, if it does. -/
def Event.outByte : Event → Option Byte
  | .outOk b => some b
  | _ => none

/-- The OUT stream: every byte the sink has accepted, in order (R54, R55: a byte answered `Fail` is not
part of the output). -/
def State.outBytes (s : State) : List Byte := s.trace.reverse.filterMap Event.outByte

/-- An IN transfer (R52). -/
def Event.isIn : Event → Bool
  | .inByte _ | .inFail => true
  | _ => false

/-- An OUT transfer (R55). -/
def Event.isOut : Event → Bool
  | .outOk _ | .outFail _ => true
  | _ => false

/-- A raster write by the sequencer (R58). -/
def Event.isRasWrite : Event → Bool
  | .rasWrite _ _ _ => true
  | _ => false

/-- A raster read by the sequencer (R59). -/
def Event.isRasRead : Event → Bool
  | .rasRead _ _ _ => true
  | _ => false

/-- A transfer of the sequencer on one of its three ports, which a host CSR read is not (R66). -/
def Event.isTransfer : Event → Bool
  | .csrRead _ _ => false
  | _ => true

end Sys2Proof.Machine
end

