-- ==== Sys2Proof/Machine/Ops.lean ====
section
/-! DEFINITION. The shared operations: the raster's bytes and pixels, the three ports' transfers,
taking an error (`raise`, R228) and the successful end (`finish`, R122) beside it, and the hand-overs
of the sequencer (R141, R181, R182). -/

namespace Sys2Proof.Machine

/-- What a raster byte that nothing has written reads as (log 6, DESIGN CHOICE). -/
def unlistedByte : Byte := 0#8

/-- One past the highest raster address: two 32-bit coordinates and four channels (R56). -/
def rasterSize : Nat := 4 * (2 ^ 32 * 2 ^ 32)

/-- The canonical form of the raster's list. -/
abbrev Memory.wf (m : Memory) : Prop :=
  m.Pairwise (fun p q => p.1 < q.1) ∧ ∀ c ∈ m, c.2 ≠ unlistedByte ∧ c.1 < rasterSize

/-- Read one byte of the raster. -/
def Memory.read : Memory → Nat → Byte
  | [], _ => unlistedByte
  | c :: m, a => if c.1 = a then c.2 else Memory.read m a

/-- Put a cell in its place in a rising list. -/
def Memory.insert : Memory → Nat → Byte → Memory
  | [], a, v => [(a, v)]
  | c :: m, a, v => if a < c.1 then (a, v) :: c :: m else c :: Memory.insert m a v

/-- Write one byte of the raster, keeping the canonical form: writing what an unlisted address reads
as removes the entry. -/
def Memory.write (m : Memory) (a : Nat) (v : Byte) : Memory :=
  let rest := m.filter (fun c => c.1 != a)
  if v = unlistedByte then rest else Memory.insert rest a v

/-- The address of channel `c` (0, 1, 2, 3 for R, G, B, A) of the pixel at `(x, y)` (log 6). -/
def rasAddr (x y : Word) (c : Nat) : Nat := 4 * (y.toNat * 2 ^ 32 + x.toNat) + c

/-- The pixel the raster holds at `(x, y)` (R56, R59). -/
def Memory.pixel (m : Memory) (x y : Word) : Pixel where
  r := m.read (rasAddr x y 0)
  g := m.read (rasAddr x y 1)
  b := m.read (rasAddr x y 2)
  a := m.read (rasAddr x y 3)

/-- The pixel at `(x, y)` becomes `px`, every other pixel is unchanged (R58). -/
def Memory.setPixel (m : Memory) (x y : Word) (px : Pixel) : Memory :=
  (((m.write (rasAddr x y 0) px.r).write (rasAddr x y 1) px.g).write (rasAddr x y 2) px.b).write
    (rasAddr x y 3) px.a

/-- One thing more has been seen on the ports (log 7). -/
def State.saw (s : State) (e : Event) : State := { s with trace := e :: s.trace }

/-- `InRecv()`: one IN transfer; a `Byte` is consumed (R52, R53). -/
def State.inRecv (s : State) : InAnswer × State :=
  match s.source with
  | .byte b :: rest => (.byte b, { s with source := rest, trace := .inByte b :: s.trace })
  | .fail :: rest => (.fail, { s with source := rest, trace := .inFail :: s.trace })
  | [] => (.fail, { s with trace := .inFail :: s.trace })

/-- The sink's answer to the next OUT transfer. -/
def Sink.next (k : Sink) : OutAnswer := k.answers.headD k.thereafter

/-- The sink after one OUT transfer. -/
def Sink.rest (k : Sink) : Sink := { k with answers := k.answers.tail }

/-- What the ports show of an OUT transfer of `b` with this answer. -/
def outEvent (b : Byte) : OutAnswer → Event
  | .ok => .outOk b
  | .fail => .outFail b

/-- `OutSend(b)`: one OUT transfer (R55). -/
def State.outSend (s : State) (b : Byte) : OutAnswer × State :=
  (Sink.next s.sink,
    { s with sink := Sink.rest s.sink, trace := outEvent b (Sink.next s.sink) :: s.trace })

/-- `RasWrite(x, y, px)`: one raster write transfer; it always succeeds (R58). -/
def State.rasWrite (s : State) (x y : Word) (px : Pixel) : State :=
  { s with raster := s.raster.setPixel x y px, trace := .rasWrite x y px :: s.trace }

/-- `RasRead(x, y)`: one raster read transfer; it always succeeds and changes nothing (R59). -/
def State.rasRead (s : State) (x y : Word) : Pixel × State :=
  (s.raster.pixel x y, { s with trace := .rasRead x y (s.raster.pixel x y) :: s.trace })

/-- Taking an error, `raise E(info)`, which is the fault of R12: ERRCODE gets the code, PHASE becomes IDLE, and nothing else
changes; `info` is already in the register R220 names (R228). -/
def State.raise (s : State) (e : Error) : State :=
  { s with errcode := e.code, phase := Phase.idle }

/-- The successful end of an operation, `finish()` (R122). There is no return from an error: the next
command that is taken, or `rst`, leaves the error state (R231). -/
def State.finish (s : State) : State :=
  { s with phase := Phase.idle, done := true }

/-- `start_blocks(p)` (R181). -/
def State.startBlocks (s : State) (p : BitVec 4) : State :=
  if div8 s.width = 0#29 ∨ div8 s.height = 0#29 then s.finish
  else { s with bX := 0#29, bY := div8 s.height - 1#29, idx := 0#6, phase := p }

/-- `next_block(p)` (R182). The comparison is of numbers: `BX + 1` is not cut to 29 bits. -/
def State.nextBlock (s : State) (p : BitVec 4) : State :=
  if s.bX.toNat + 1 < (div8 s.width).toNat then
    { s with idx := 0#6, bX := s.bX + 1#29, phase := p }
  else if 0 < s.bY.toNat then
    { s with idx := 0#6, bX := 0#29, bY := s.bY - 1#29, phase := p }
  else
    State.finish { s with idx := 0#6 }

/-- `padding_complete()`: the width check, the height check, then the blocks (R141). -/
def State.paddingComplete (s : State) : State :=
  if !multipleOf8 s.width then s.raise .widthNotMultipleOf8
  else if !multipleOf8 s.height then s.raise .heightNotMultipleOf8
  else s.startBlocks Phase.dFill

/-- The block is held at the values of R39; BLK is unspecified there and is a free value here
(R250, R251; log 5). What lies outside the block stays: transfers made stay made (R251). -/
def State.applyReset (s : State) : State :=
  { s with
    magic := 0#32, fmtid := 0#32, width := 0#32, height := 0#32, pixbits := 0#32, payoff := 0#32
    phase := Phase.idle, done := false, errcode := 0#4, dir := false
    acc := 0#32, hcnt := 0#7, skip := 0#32, bX := 0#29, bY := 0#29, idx := 0#6
    blk := Config.blkAfterReset s.draws, draws := s.draws + 1 }

/-- The next move is taken off the list. -/
def State.popTurn (s : State) : State := { s with turns := s.turns.tail }

end Sys2Proof.Machine
end

