-- ==== Sys2Proof/Machine/Command.lean ====
section
/-! DEFINITION. The meanings of the three host commands (R110 to R112, R114). -/

namespace Sys2Proof.Machine

/-- NOP changes no state, busy or idle (R110). -/
def execNop (s : State) : Host.Outcome State Fault Refusal := .next s

/-- What a taken DECODE writes (R111). -/
def State.startDecode (s : State) : State :=
  { s with
    done := false, errcode := 0#4, dir := false
    magic := 0#32, fmtid := 0#32, width := 0#32, height := 0#32, pixbits := 0#32, payoff := 0#32
    hcnt := 0#7, phase := Phase.dHdr }

/-- DECODE: taken when PHASE = IDLE, ignored otherwise (R111, R114). -/
def execDecode (s : State) : Host.Outcome State Fault Refusal :=
  if s.phase = Phase.idle then .next s.startDecode else .next s

/-- What a taken ENCODE does: the old result is cleared, then format, width and height are checked in
that order and the first failing check is the error (R112). -/
def State.startEncode (s : State) : State :=
  let s1 := { s with done := false, errcode := 0#4, dir := true }
  if (resolve s1.fmtid).isNone then s1.raise .unsupportedFormat
  else if !multipleOf8 s1.width then s1.raise .widthNotMultipleOf8
  else if !multipleOf8 s1.height then s1.raise .heightNotMultipleOf8
  else { s1 with hcnt := 0#7, phase := Phase.eHdr }

/-- ENCODE: taken when PHASE = IDLE, ignored otherwise (R112, R114). -/
def execEncode (s : State) : Host.Outcome State Fault Refusal :=
  if s.phase = Phase.idle then .next s.startEncode else .next s

end Sys2Proof.Machine
end

