-- ==== Sys2Proof/Machine/DecodeSteps.lean ====
section
/-! DEFINITION. The meanings of the decode steps D_HDR, D_PAD, D_FILL, D_DRAIN (R131 to R143, R190 to
R193). -/

namespace Sys2Proof.Machine

/-- How a field rule ends: it goes on, or an error has been raised in it ("if no raise happened",
R131). -/
inductive Flow where
  /-- no raise happened -/
  | goesOn (s : State)
  /-- an error has been taken -/
  | raised (s : State)
deriving DecidableEq, Repr

/-- The state a field rule leaves. -/
def Flow.state : Flow → State
  | .goesOn s => s
  | .raised s => s

/-- `field_magic(v)` (R132). -/
def fieldMagic (v : Word) (s : State) : Flow :=
  if v = Config.magicWord then .goesOn { s with magic := v }
  else .raised (State.raise { s with magic := v } .invalidHeader)

/-- `field_fmtid(v)` (R133). -/
def fieldFmtid (v : Word) (s : State) : Flow :=
  match resolve v with
  | some _ => .goesOn { s with fmtid := v }
  | none => .raised (State.raise { s with fmtid := v } .unsupportedFormat)

/-- `field_payoff(v)`: the pixel length check (R139), the payload offset check (R140), then the
padding (R138). -/
def fieldPayoff (v : Word) (s : State) : Flow :=
  let s1 := { s with payoff := v }
  if s1.pixbits ≠ declaredBits s1.fmtid then .raised (s1.raise .pixelLengthInvalid)
  else if v.toNat < Config.hdrFixed.toNat then .raised (s1.raise .payloadStartsTooSoon)
  else
    let s2 := { s1 with skip := v - Config.hdrFixed }
    if s2.skip = 0#32 then .goesOn s2.paddingComplete
    else .goesOn { s2 with phase := Phase.dPad }

/-- What happens when field number `n` of the header is whole and has the value `v` (R131 to R138). -/
def completeField (n : Nat) (v : Word) (s : State) : Flow :=
  if n = 0 then fieldMagic v s
  else if n = 1 then fieldFmtid v s
  else if n = 2 then .goesOn { s with width := v }
  else if n = 3 then .goesOn { s with height := v }
  else if n = 4 then .goesOn { s with pixbits := v }
  else if n = 6 then fieldPayoff v s
  else .goesOn s

/-- `if no raise happened and k < 27 then HCNT <- k + 1` (R131). -/
def countHeaderByte (k : BitVec 7) : Flow → State
  | .goesOn s => if k.toNat < 27 then { s with hcnt := k + 1#7 } else s
  | .raised s => s

/-- The D_HDR step's work on a byte it received (R131). -/
def headerByteIn (b : Byte) (s : State) : State :=
  let k := s.hcnt
  let s1 := { s with acc := insertByte s.acc (k.toNat % 4) b }
  countHeaderByte k
    (if k.toNat % 4 = 3 then completeField (k.toNat / 4) s1.acc s1 else .goesOn s1)

/-- STEP.D_HDR: one IN transfer (R131). -/
def execStepDHdr (s : State) : Host.Outcome State Fault Refusal :=
  match s.inRecv with
  | (.fail, s1) => .next (s1.raise .ioError)
  | (.byte b, s1) => .next (headerByteIn b s1)

/-- The D_PAD step's work on a byte it received, which it discards (R143). -/
def paddingByteIn (s : State) : State :=
  let s1 := { s with skip := s.skip - 1#32 }
  if s1.skip = 0#32 then s1.paddingComplete else s1

/-- STEP.D_PAD: one IN transfer (R143). -/
def execStepDPad (s : State) : Host.Outcome State Fault Refusal :=
  match s.inRecv with
  | (.fail, s1) => .next (s1.raise .ioError)
  | (.byte _, s1) => .next (paddingByteIn s1)

/-- `if IDX < 63 then IDX <- IDX + 1 else IDX <- 0 ; PHASE <- p`: the first phase of a block goes on or
hands over to the second (R190, R205). -/
def State.nextInBlock (s : State) (p : BitVec 4) : State :=
  if s.idx.toNat < 63 then { s with idx := s.idx + 1#6 } else { s with idx := 0#6, phase := p }

/-- STEP.D_FILL: one IN transfer, the byte lands in BLK[IDX] (R190). -/
def execStepDFill (s : State) : Host.Outcome State Fault Refusal :=
  match s.inRecv with
  | (.fail, s1) => .next (s1.raise .ioError)
  | (.byte b, s1) =>
    .next (State.nextInBlock { s1 with blk := blkSet s1.blk s1.idx b } Phase.dDrain)

/-- `if IDX < 63 then IDX <- IDX + 1 else next_block(p)`: the second phase of a block goes on or the
block ends (R192, R210). -/
def State.nextInDrain (s : State) (p : BitVec 4) : State :=
  if s.idx.toNat < 63 then { s with idx := s.idx + 1#6 } else s.nextBlock p

/-- STEP.D_DRAIN: one raster write of the unpacked BLK[IDX] (R192). The variant is A8 (R38 item 6). -/
def execStepDDrain (s : State) : Host.Outcome State Fault Refusal :=
  let xy := pixelAt s.bX s.bY s.idx
  let px := Variant.unpack .a8 (blkGet s.blk s.idx)
  .next (State.nextInDrain (s.rasWrite xy.1 xy.2 px) Phase.dFill)

end Sys2Proof.Machine
end

