-- ==== Sys2Proof/Machine/EncodeSteps.lean ====
section
/-! DEFINITION. The meanings of the encode steps E_HDR, E_GATHER, E_EMIT (R161, R162, R205, R210,
R211). -/

namespace Sys2Proof.Machine

/-- What the E_HDR step does once its byte is accepted (R161). -/
def headerByteOut (s : State) : State :=
  if s.hcnt.toNat < 127 then { s with hcnt := s.hcnt + 1#7 } else s.startBlocks Phase.eGather

/-- STEP.E_HDR: one OUT transfer of a header byte (R161). -/
def execStepEHdr (s : State) : Host.Outcome State Fault Refusal :=
  match s.outSend (headerByte s.fmtid s.width s.height s.hcnt.toNat) with
  | (.fail, s1) => .next (s1.raise .ioError)
  | (.ok, s1) => .next (headerByteOut s1)

/-- STEP.E_GATHER: one raster read, the packed pixel lands in BLK[IDX] (R205). The variant is A8
(R38 item 6). -/
def execStepEGather (s : State) : Host.Outcome State Fault Refusal :=
  let xy := pixelAt s.bX s.bY s.idx
  match s.rasRead xy.1 xy.2 with
  | (px, s1) =>
    .next (State.nextInBlock
      { s1 with blk := blkSet s1.blk s1.idx (Variant.pack .a8 px) } Phase.eEmit)

/-- STEP.E_EMIT: one OUT transfer of BLK[IDX] (R210). -/
def execStepEEmit (s : State) : Host.Outcome State Fault Refusal :=
  match s.outSend (blkGet s.blk s.idx) with
  | (.fail, s1) => .next (s1.raise .ioError)
  | (.ok, s1) => .next (s1.nextInDrain Phase.eGather)

end Sys2Proof.Machine
end

