-- ==== Sys2Proof/Machine/Format.lean ====
section
/-! DEFINITION. The meaning of the format identifier row FMT.A8 (R84, R117; log 9). -/

namespace Sys2Proof.Machine

/-- The host's write of an identifier to CSR FMTID: taken when PHASE = IDLE, ignored otherwise
(R117). -/
def State.hostFormat (s : State) (id : Word) : State :=
  if s.phase = Phase.idle then { s with fmtid := id } else s

/-- FMT.A8: the identifier 8 is selected by a write to CSR FMTID (R117). What the variant it selects
does to a byte and to a pixel, `unpackA8` (R195) and `packA8` (R208), happens inside the D_DRAIN and
E_GATHER steps (R192, R205); its declared bit length is used by the header steps (R139, R162). The
other place the identifier arrives, the header field of R133, is part of the D_HDR step (log 9). -/
def execFmtA8 (s : State) : Host.Outcome State Fault Refusal := .next (s.hostFormat 8#32)

end Sys2Proof.Machine
end

