-- ==== Sys2Proof/Machine/Dispatch.lean ====
section
/-! DEFINITION. One arm per row of spec/opcode_table.json. -/

namespace Sys2Proof.Machine

def exec (i : Instr) (s : State) : Host.Outcome State Fault Refusal :=
  match i with
  | .nop => Sys2Proof.Machine.execNop s
  | .decode => Sys2Proof.Machine.execDecode s
  | .encode => Sys2Proof.Machine.execEncode s
  | .fmtA8 => Sys2Proof.Machine.execFmtA8 s
  | .stepDHdr => Sys2Proof.Machine.execStepDHdr s
  | .stepDPad => Sys2Proof.Machine.execStepDPad s
  | .stepDFill => Sys2Proof.Machine.execStepDFill s
  | .stepDDrain => Sys2Proof.Machine.execStepDDrain s
  | .stepEHdr => Sys2Proof.Machine.execStepEHdr s
  | .stepEGather => Sys2Proof.Machine.execStepEGather s
  | .stepEEmit => Sys2Proof.Machine.execStepEEmit s

end Sys2Proof.Machine
end

