-- ==== Sys2Proof/Machine/Csr.lean ====
section
/-! DEFINITION. Host accesses to the CSR space (R21, R60, R116, R117). A CSR write that carries a code
word (a write to CMD, or to FMTID) is decoded by the step; the rest of R117 is here. -/

namespace Sys2Proof.Machine

/-- The names of the CSR words (R21). -/
inductive CsrName where
  /-- 0x00 -/
  | magic
  /-- 0x04 -/
  | fmtid
  /-- 0x08 -/
  | width
  /-- 0x0C -/
  | height
  /-- 0x10 -/
  | pixbits
  /-- 0x14 -/
  | rsvd
  /-- 0x18 -/
  | payoff
  /-- 0x1C, which has no name of its own -/
  | unused
  /-- 0x20 -/
  | cmd
  /-- 0x24 -/
  | status
deriving DecidableEq, Repr

/-- The byte offset of a CSR word from `CSR_BASE` (R21). -/
def CsrName.offset : CsrName → Word
  | .magic => 0x00#32
  | .fmtid => 0x04#32
  | .width => 0x08#32
  | .height => 0x0C#32
  | .pixbits => 0x10#32
  | .rsvd => 0x14#32
  | .payoff => 0x18#32
  | .unused => 0x1C#32
  | .cmd => 0x20#32
  | .status => 0x24#32

/-- `CsrRead(off)` (R116): 0 at the offsets with no storage, at CMD, at any other offset, and for an
access that is not a whole word (R26, R28, R60). -/
def State.csrRead (s : State) (off : Word) (size : AccessSize) : Word :=
  if size ≠ .word then 0#32
  else if off = 0x00#32 then s.magic
  else if off = 0x04#32 then s.fmtid
  else if off = 0x08#32 then s.width
  else if off = 0x0C#32 then s.height
  else if off = 0x10#32 then s.pixbits
  else if off = 0x18#32 then s.payoff
  else if off = 0x24#32 then s.status
  else 0#32

/-- The part of `CsrWrite(off, v)` that carries no code word: WIDTH and HEIGHT take the value when
PHASE = IDLE, everything else changes nothing (R117, R60). -/
def State.csrWriteData (s : State) (off : Word) (size : AccessSize) (v : Word) : State :=
  if size = .word ∧ s.phase = Phase.idle ∧ off = 0x08#32 then { s with width := v }
  else if size = .word ∧ s.phase = Phase.idle ∧ off = 0x0C#32 then { s with height := v }
  else s

/-- The code word a CSR write carries, if it carries one: the word written to CMD is a command (R80,
R117), the word written to FMTID is a format identifier (R84, R117). -/
def csrCode (off : Word) (size : AccessSize) (v : Word) : Option CodeWord :=
  if size = .word ∧ off = 0x20#32 then some (.cmd v)
  else if size = .word ∧ off = 0x04#32 then some (.fmt v)
  else none

end Sys2Proof.Machine
end

