-- ==== Sys2Proof/Machine/Fetch.lean ====
section
/-! DEFINITION. Which code word the next step runs, what a code word with no operation does, and what
a move that runs no operation does. -/

namespace Sys2Proof.Machine

/-- The code word the next step is about to run: the sequencer's PHASE code when it is the
sequencer's turn and PHASE ≠ IDLE (R120; an idle block takes no step, R12), or the code word of the host's CSR
write (R117). While `rst` is asserted nothing runs (R250). -/
def State.pending (s : State) : Option CodeWord :=
  if s.rst then none
  else
    match s.turns with
    | .sequencer :: _ => if s.phase = Phase.idle then none else some (.phase s.phase)
    | .host (.csrWrite off size v) :: _ => csrCode off size v
    | _ => none

/-- A code word that stands for no operation. A reserved command value changes nothing (R113). A
format identifier that does not resolve is held by FMTID like any other value when the host writes it
while idle (R23, R117). PHASE 8 to 15 is never taken (R31). -/
def undecoded (e : DecodeError) (s : State) : Host.Outcome State Fault Refusal :=
  match e with
  | .reservedCommand _ => .next s
  | .unknownFormat v => .next (s.hostFormat v)
  | .reservedPhase c => .fault (.reservedPhase c)
  | .idlePhase => .next s
  | .wrongLength => .next s

/-- What a host action does that runs no operation; the action itself is already off the list. A CSR
write while `rst` is asserted has no effect (R250). `WAIT` reads STATUS and, while BUSY = 1, lets the
sequencer take a step and asks again (R97). -/
def hostAct (a : HostAct) (s : State) : State :=
  match a with
  | .csrRead off size => s.saw (.csrRead off (s.csrRead off size))
  | .csrWrite off size v => if s.rst then s else s.csrWriteData off size v
  | .rstAssert => { s.applyReset with rst := true }
  | .rstRelease => { s with rst := false }
  | .waitIdle =>
    let s1 := s.saw (.csrRead 0x24#32 s.status)
    if s.busy then { s1 with turns := .sequencer :: .host .waitIdle :: s1.turns } else s1

/-- What a move does that runs no operation; the move itself is already off the list. The sequencer
takes no step when PHASE = IDLE (R120) or `rst` is asserted (R250). -/
def agentAct (t : Turn) (s : State) : State :=
  match t with
  | .sequencer => s
  | .host a => hostAct a s
  | .source answers => { s with source := answers }
  | .sink k => { s with sink := k }
  | .raster x y px => { s with raster := s.raster.setPixel x y px }

/-- One step that runs no operation. With no move to come nothing happens: the block waits (R72,
R252). -/
def quietStep (s : State) : State :=
  match s.turns with
  | [] => s
  | t :: _ => agentAct t s.popTurn

/-- The state in which the next move runs exactly this code word: a command or a format identifier is
the host's next CSR write; a PHASE code stands in PHASE and it is the sequencer's turn (log 11). -/
def State.withCode (s : State) (c : CodeWord) : State :=
  match c with
  | .cmd v =>
    { s with rst := false, turns := .host (.csrWrite 0x20#32 .word v) :: s.turns }
  | .fmt v =>
    { s with rst := false, turns := .host (.csrWrite 0x04#32 .word v) :: s.turns }
  | .phase p => { s with rst := false, phase := p, turns := .sequencer :: s.turns }

end Sys2Proof.Machine
end

