-- ==== Sys2Proof/Machine/Step.lean ====
section
/-! DEFINITION. One step of the whole machine: the next move of the list (R8, R66, R67). -/

namespace Sys2Proof.Machine

/-- One move. A step of the sequencer is one whole transfer with all the state change the rules attach to
it, and no other agent's move falls inside it: steps are atomic (R12). If the move runs a code word, it
is taken off the list and the operation the code word stands for is executed; otherwise the move does
what its agent does. -/
def step (s : State) : Host.Outcome State Fault Refusal :=
  match s.pending with
  | none => .next (quietStep s)
  | some c =>
    match decodeCode c with
    | .ok i => exec i s.popTurn
    | .error e => undecoded e s.popTurn

/-- The state with the instruction of an opcode-table word stored where `step` fetches: as the host's
next CSR write, or in PHASE with the sequencer to move (log 11). A word that is no word of the table's
widths is not stored. -/
def State.withFetchWord (s : State) (nbits w : Nat) : State :=
  match tableCode nbits w with
  | some c => s.withCode c
  | none => s

end Sys2Proof.Machine
end

