-- ==== Sys2Proof/Machine/Script.lean ====
section
/-! DEFINITION. The host script notation (R97) and the two pseudo-instructions (R98), each line as the
moves it stands for. -/

namespace Sys2Proof.Machine

/-- One line of a host script, or of its environment (R97). -/
inductive ScriptLine where
  /-- `WR name, value` -/
  | wr (name : CsrName) (v : Word)
  /-- `RD name` -/
  | rd (name : CsrName)
  /-- `NOP` -/
  | nop
  /-- `DECODE` -/
  | decode
  /-- `ENCODE` -/
  | encode
  /-- `WAIT` -/
  | wait
  /-- `RESET` -/
  | reset
  /-- `IN: bytes EOF`: these bytes, then `Fail` for ever -/
  | inBytes (bs : List Byte)
  /-- one pixel of `RASTER: ...` -/
  | rasterPixel (x y : Word) (px : Pixel)
  /-- `OUT: accept all` -/
  | outAcceptAll
  /-- `OUT: accept n then FAIL` -/
  | outAcceptThenFail (n : Nat)
  /-- `STEP n` -/
  | steps (n : Nat)
deriving DecidableEq, Repr

/-- A whole-word write of a named CSR word. -/
def wrTurn (name : CsrName) (v : Word) : Turn := .host (.csrWrite name.offset .word v)

/-- The moves a line stands for (R97). -/
def ScriptLine.turns : ScriptLine → List Turn
  | .wr name v => [wrTurn name v]
  | .rd name => [.host (.csrRead name.offset .word)]
  | .nop => [wrTurn .cmd 0#32]
  | .decode => [wrTurn .cmd 1#32]
  | .encode => [wrTurn .cmd 2#32]
  | .wait => [.host .waitIdle]
  | .reset => [.host .rstAssert, .host .rstRelease]
  | .inBytes bs => [.source (bs.map .byte)]
  | .rasterPixel x y px => [.raster x y px]
  | .outAcceptAll => [.sink ⟨[], .ok⟩]
  | .outAcceptThenFail n => [.sink ⟨List.replicate n .ok, .fail⟩]
  | .steps n => List.replicate n .sequencer

/-- A script as moves. -/
def scriptTurns (lines : List ScriptLine) : List Turn := lines.flatMap ScriptLine.turns

/-- `EXTRACT` up to its reading of STATUS (R98). -/
def extractScript : List ScriptLine := [.decode, .wait, .rd .status]

/-- `EXTRACT` after STATUS has been read: on DONE the dimensions are read (R98). -/
def extractTail (status : Word) : List ScriptLine :=
  if status.getLsbD 1 then [.rd .width, .rd .height] else []

/-- `PACKFILE w, h` (R98). -/
def packfileScript (w h : Word) : List ScriptLine :=
  [.wr .fmtid 8#32, .wr .width w, .wr .height h, .encode, .wait, .rd .status]

end Sys2Proof.Machine
end

