-- ==== Sys2Proof/Safety.lean ====
section
/-! DEFINITION. What the statements talk about: the invariants of R38 and what they rest on, the run of
one operation, the rows of the
transition table (R121), and what an operation that ended well guarantees (R124, R125). -/

namespace Sys2Proof.Machine

/-- The width and the height are multiples of 8 and not 0, and the block counters are inside them
(R38 item 6). -/
structure State.InBlocks (s : State) : Prop where
  /-- `WIDTH mod 8 = 0` -/
  widthMul : s.width.toNat % 8 = 0
  /-- `HEIGHT mod 8 = 0` -/
  heightMul : s.height.toNat % 8 = 0
  /-- `BX < WIDTH/8` -/
  bxLt : s.bX.toNat < s.width.toNat / 8
  /-- `BY < HEIGHT/8` -/
  byLt : s.bY.toNat < s.height.toNat / 8
  /-- `resolve(FMTID) = A8` -/
  format : resolve s.fmtid = some .a8

/-- Every register and counter of the block but BLK has its reset value (R39). -/
structure State.AtReset (s : State) : Prop where
  /-- the six header registers are 0 -/
  registers : s.magic = 0#32 ∧ s.fmtid = 0#32 ∧ s.width = 0#32 ∧ s.height = 0#32 ∧ s.pixbits = 0#32 ∧ s.payoff = 0#32
  /-- PHASE = IDLE, DONE = 0, ERRCODE = 0, DIR = 0 -/
  result : s.phase = Phase.idle ∧ s.done = false ∧ s.errcode = 0#4 ∧ s.dir = false
  /-- the sequencer counters are 0 -/
  counters : s.acc = 0#32 ∧ s.hcnt = 0#7 ∧ s.skip = 0#32 ∧ s.bX = 0#29 ∧ s.bY = 0#29 ∧ s.idx = 0#6

/-- The invariant: the six items of R38, the facts about the header steps that they rest on (R132,
R133, R139, R140, R112), the legal codes (R29, R31, R220), the hold of `rst` (R250), and the canonical
form of the raster's list. -/
structure State.Inv (s : State) : Prop where
  /-- PHASE 8 to 15 never occurs (R31) -/
  phaseLegal : s.phase.toNat ≤ 7
  /-- ERRCODE 8 to 15 never occurs (R220) -/
  errLegal : s.errcode.toNat ≤ 7
  /-- R38 item 2, first sentence -/
  doneMeans : s.done = true → s.errcode = 0#4 ∧ s.phase = Phase.idle
  /-- R38 item 2, second sentence -/
  errMeans : s.errcode ≠ 0#4 → s.done = false ∧ s.phase = Phase.idle
  /-- R38 item 3, decode phases -/
  decodeDir : s.phase = Phase.dHdr ∨ s.phase = Phase.dPad ∨ s.phase = Phase.dFill ∨
    s.phase = Phase.dDrain → s.dir = false
  /-- R38 item 3, encode phases -/
  encodeDir : s.phase = Phase.eHdr ∨ s.phase = Phase.eGather ∨ s.phase = Phase.eEmit → s.dir = true
  /-- R38 item 4 (in E_HDR every 7-bit value is within 0 to 127) -/
  headerCount : s.phase = Phase.dHdr → s.hcnt.toNat ≤ 27
  /-- R38 item 5 -/
  skipRange : s.phase = Phase.dPad → 1 ≤ s.skip.toNat ∧ s.skip.toNat ≤ 0xFFFFFFE3
  /-- R38 item 6 -/
  inBlocks : s.phase = Phase.dFill ∨ s.phase = Phase.dDrain ∨ s.phase = Phase.eGather ∨
    s.phase = Phase.eEmit → s.InBlocks
  /-- once the magic has been read it was right (R132) -/
  magicRead : s.phase = Phase.dHdr ∧ 4 ≤ s.hcnt.toNat ∨ s.phase = Phase.dPad ∨
    s.phase = Phase.dFill ∨ s.phase = Phase.dDrain → s.magic = Config.magicWord
  /-- once the format identifier has been read, or ENCODE has checked it, it resolves (R133, R112) -/
  formatRead : s.phase = Phase.dHdr ∧ 8 ≤ s.hcnt.toNat ∨ s.phase = Phase.dPad ∨
    s.phase = Phase.eHdr → resolve s.fmtid = some .a8
  /-- past the header the pixel length and the payload offset were good (R139, R140) -/
  headerRead : s.phase = Phase.dPad ∨ s.phase = Phase.dFill ∨ s.phase = Phase.dDrain →
    s.pixbits = 8#32 ∧ 28 ≤ s.payoff.toNat
  /-- ENCODE has checked the dimensions (R112) -/
  encodeDims : s.phase = Phase.eHdr → s.width.toNat % 8 = 0 ∧ s.height.toNat % 8 = 0
  /-- the errors of an ENCODE are 1, 3, 6 and 7 (R220) -/
  encodeErrors : s.dir = true → s.errcode = 0#4 ∨ s.errcode = 1#4 ∨ s.errcode = 3#4 ∨ s.errcode = 6#4 ∨
    s.errcode = 7#4
  /-- an idle block with neither DONE nor ERR has run no ENCODE since `rst` (R38 item 1, R39) -/
  freshDir : s.phase = Phase.idle → s.done = false → s.errcode = 0#4 → s.dir = false
  /-- while `rst` is asserted the block is held at its reset values (R250) -/
  held : s.rst = true → s.AtReset
  /-- the raster's list is in canonical form -/
  canonical : s.raster.wf

/-- One of BUSY, DONE, ERR is 1 (R38 item 1). -/
def State.hasOutcome (s : State) : Bool := s.busy || s.done || s.err

/-- IDLE, DONE: the operation has ended by `finish()` (R121, R122). -/
def State.isDone (s : State) : Prop := s.phase = Phase.idle ∧ s.done = true ∧ s.errcode = 0#4

/-- IDLE, ERR: the operation has ended by this error (R121, R228). -/
def State.isErr (s : State) (e : Error) : Prop :=
  s.phase = Phase.idle ∧ s.done = false ∧ s.errcode = e.code

/-- In a phase, with neither DONE nor ERR. -/
def State.isIn (s : State) (p : BitVec 4) : Prop := s.phase = p ∧ s.done = false ∧ s.errcode = 0#4

/-- The rows "padding complete" of R121: where they lead from `s`. -/
def State.paddingRows (s t : State) : Prop :=
  if s.width.toNat % 8 ≠ 0 then t.isErr .widthNotMultipleOf8
  else if s.height.toNat % 8 ≠ 0 then t.isErr .heightNotMultipleOf8
  else if s.width = 0#32 ∨ s.height = 0#32 then t.isDone
  else t.isIn Phase.dFill

/-- The rows of R121 for D_HDR and an answer `Byte`, with `v` the field that ends at this byte. -/
def State.headerRows (s t : State) (v : Word) : Prop :=
  if s.hcnt = 3#7 ∧ v ≠ Config.magicWord then t.isErr .invalidHeader
  else if s.hcnt = 7#7 ∧ v ≠ 8#32 then t.isErr .unsupportedFormat
  else if s.hcnt.toNat < 27 then t.isIn Phase.dHdr
  else if s.pixbits ≠ 8#32 then t.isErr .pixelLengthInvalid
  else if v.toNat < 28 then t.isErr .payloadStartsTooSoon
  else if 28 < v.toNat then t.isIn Phase.dPad
  else s.paddingRows t

/-- The rows of R121 for an answer `Byte b` on IN. -/
def State.byteRows (s t : State) (b : Byte) : Prop :=
  (s.phase = Phase.dHdr → s.headerRows t (insertByte s.acc 3 b)) ∧
  (s.phase = Phase.dPad → if 1 < s.skip.toNat then t.isIn Phase.dPad else s.paddingRows t) ∧
  (s.phase = Phase.dFill → t.isIn (if s.idx.toNat < 63 then Phase.dFill else Phase.dDrain))

/-- The rows of R121 for an answer `Ok` on OUT; the test after byte 63 is "another block remains"
(R182). -/
def State.okRows (s t : State) : Prop :=
  (s.phase = Phase.eHdr →
    if s.hcnt.toNat < 127 then t.isIn Phase.eHdr
    else if s.width = 0#32 ∨ s.height = 0#32 then t.isDone
    else t.isIn Phase.eGather) ∧
  (s.phase = Phase.eEmit →
    if s.idx.toNat < 63 then t.isIn Phase.eEmit
    else if s.bX.toNat + 1 < s.width.toNat / 8 ∨ 0 < s.bY.toNat then t.isIn Phase.eGather
    else t.isDone)

/-- The rows of R121 for the raster port, with the same test after pixel 63. -/
def State.rasterRows (s t : State) : Prop :=
  (s.phase = Phase.dDrain →
    if s.idx.toNat < 63 then t.isIn Phase.dDrain
    else if s.bX.toNat + 1 < s.width.toNat / 8 ∨ 0 < s.bY.toNat then t.isIn Phase.dFill
    else t.isDone) ∧
  (s.phase = Phase.eGather → t.isIn (if s.idx.toNat < 63 then Phase.eGather else Phase.eEmit))

/-- Every row of R121 that a sequencer step can take from `s` leads to `t`: which row it is depends on
PHASE, on the answer of the port, on the counters and on the checks, as the column Event says. -/
def State.sequencerRows (s t : State) : Prop :=
  (s.phase = Phase.dHdr ∨ s.phase = Phase.dPad ∨ s.phase = Phase.dFill →
    match s.source with
    | .byte b :: _ => s.byteRows t b
    | _ => t.isErr .ioError) ∧
  (s.phase = Phase.eHdr ∨ s.phase = Phase.eEmit →
    match s.sink.answers.headD s.sink.thereafter with
    | .ok => s.okRows t
    | .fail => t.isErr .ioError) ∧
  s.rasterRows t

/-- The rows of R121 for an ENCODE that is taken. -/
def State.encodeRows (s t : State) : Prop :=
  if s.fmtid ≠ 8#32 then t.isErr .unsupportedFormat
  else if s.width.toNat % 8 ≠ 0 then t.isErr .widthNotMultipleOf8
  else if s.height.toNat % 8 ≠ 0 then t.isErr .heightNotMultipleOf8
  else t.isIn Phase.eHdr

/-- A move that leaves a running DECODE its stream and its raster: not `rst`, not another byte source,
not another agent's raster write (R257, R258). -/
def Turn.sparesDecode : Turn → Bool
  | .host .rstAssert => false
  | .source _ => false
  | .raster _ _ _ => false
  | _ => true

/-- A move that leaves a running ENCODE its sink and its raster (R257, R258). -/
def Turn.sparesEncode : Turn → Bool
  | .host .rstAssert => false
  | .sink _ => false
  | .raster _ _ _ => false
  | _ => true

/-- At most `n` steps of one operation, which lasts from its command to `finish()` or to a fault (R12):
while PHASE ≠ IDLE, as long as the moves are of the kind
`spares` says. It answers the state reached, if every step gives a next state. -/
def runOperation (spares : Turn → Bool) : Nat → State → Option State
  | 0, s => some s
  | n + 1, s =>
    if s.phase = Phase.idle then some s
    else if s.turns.all spares then
      match step s with
      | .next s' => runOperation spares n s'
      | _ => none
    else none

/-- The 32-bit header field of a file at offset `f` (R82). -/
def fileField (file : List Byte) (f : Nat) : Word :=
  u32 (file.getD f 0) (file.getD (f + 1) 0) (file.getD (f + 2) 0) (file.getD (f + 3) 0)

/-- The pixel `(x, y)` is inside the image (R64). -/
def State.inside (s : State) (x y : Word) : Prop :=
  x.toNat < s.width.toNat ∧ y.toNat < s.height.toNat

/-- How many bytes of payload the image has (R86). A number; the block never forms it (R197). -/
def State.payloadSize (s : State) : Nat := s.width.toNat * s.height.toNat

/-- What a DECODE of `file` that ended well guarantees, begun with the raster `before` (R125). -/
structure DecodedWell (file : List Byte) (before : Memory) (s : State) : Prop where
  /-- it ended by `finish()` (R122, R124) -/
  ended : s.phase = Phase.idle ∧ s.done = true ∧ s.errcode = 0#4
  /-- MAGIC, FMTID, PIXBITS -/
  fixedFields : s.magic = Config.magicWord ∧ s.fmtid = 8#32 ∧ s.pixbits = 8#32
  /-- WIDTH, HEIGHT, PAYOFF are the fields of the file -/
  fields : s.width = fileField file 8 ∧ s.height = fileField file 12 ∧ s.payoff = fileField file 24
  /-- the checks have passed -/
  checked : 28 ≤ s.payoff.toNat ∧ s.width.toNat % 8 = 0 ∧ s.height.toNat % 8 = 0
  /-- every pixel of the image is its payload byte, unpacked -/
  pixels : ∀ x y, s.inside x y → s.raster.pixel x y =
    unpackA8 (file.getD (s.payoff.toNat + payloadPos s.width s.height x y) 0)
  /-- no other pixel has changed (R58) -/
  outside : ∀ x y, ¬ s.inside x y → s.raster.pixel x y = before.pixel x y
  /-- the block consumed exactly the header, the padding and the payload -/
  consumed : s.payoff.toNat + s.payloadSize ≤ file.length ∧
    s.source = (file.drop (s.payoff.toNat + s.payloadSize)).map .byte

/-- The 128 header bytes of an ENCODE (R93, R162). -/
def canonicalHeader (fmtid width height : Word) : List Byte :=
  (List.range 128).map (headerByte fmtid width height)

/-- The payload of the image an ENCODE begun in `s0` writes: as long as the image, with every pixel
packed at its position (R86, R125). -/
def State.hasPayload (s0 : State) (payload : List Byte) : Prop :=
  payload.length = s0.payloadSize ∧
  ∀ x y, s0.inside x y → payload[payloadPos s0.width s0.height x y]? =
    some (packA8 (s0.raster.pixel x y))

/-- What an ENCODE that ended well guarantees, begun in `s0` (R125). -/
structure EncodedWell (s0 s : State) : Prop where
  /-- it ended by `finish()` (R122, R124) -/
  ended : s.phase = Phase.idle ∧ s.done = true ∧ s.errcode = 0#4
  /-- it read FMTID, WIDTH, HEIGHT and the raster, and changed none of them (R112, R59) -/
  kept : s.fmtid = s0.fmtid ∧ s.width = s0.width ∧ s.height = s0.height ∧ s.raster = s0.raster
  /-- the sink has the header, then a payload of the image's size in which every pixel stands packed
  at its position -/
  output : ∃ payload : List Byte,
    s.outBytes = s0.outBytes ++ canonicalHeader s0.fmtid s0.width s0.height ++ payload ∧
    s0.hasPayload payload

end Sys2Proof.Machine
end

