-- ==== Sys2Proof/Certificates/Slice0/Obligations.lean ====
section
/-! DEFINITION. The statements for the provers. Each says in its docstring which rules it formalises.
Notes on the model's own choices: which agent moves next is the list `turns` (log 1), `trace` is what
the ports have shown (log 7). -/

open Sys2Proof Sys2Proof.Machine

/-! ### Codes and steps -/

/-- R31, R80, R84: every operation is the one its code stands for, and a code that decodes is the code
of the operation it decodes to, all bits compared. -/
def Obligations.CodesAndOperationsAgree : Prop :=
  (∀ i, decodeCode (encode i) = .ok i) ∧ (∀ c i, decodeCode c = .ok i → c = encode i)

/-- R80, R84, R31: the words of the opcode table, written out, decode to their operations; the bytes of
the format identifier are read least significant first. That the 32-bit word 8 is read as the format
identifier (as a CMD value R80 reserves it), that a PHASE code is one byte with zeros above it, and
that a CMD value is laid out as bytes, least significant first, is the model's choice (log 11). -/
def Obligations.TableWordsDecode : Prop :=
  decodeTableWord 32 0x00000000 = some .nop ∧ decodeTableWord 32 0x00000001 = some .decode ∧
  decodeTableWord 32 0x00000002 = some .encode ∧ decodeTableWord 32 0x00000008 = some .fmtA8 ∧
  decodeTableWord 8 0x1 = some .stepDHdr ∧ decodeTableWord 8 0x4 = some .stepDDrain ∧
  decodeTableWord 8 0x7 = some .stepEEmit ∧
  decodeBytes .format [0x08#8, 0x00#8, 0x00#8, 0x00#8] = .ok .fmtA8 ∧
  decodeBytes .format [0x08#8, 0x00#8, 0x00#8, 0x01#8] = .error (.unknownFormat 0x01000008#32) ∧
  decodeBytes .command [0x01#8, 0x01#8, 0x00#8, 0x00#8] = .error (.reservedCommand 0x101#32)

/-- R120, R117: with `rst` released, a sequencer turn runs the operation its PHASE code decodes to, a
write to CMD the one the command word decodes to, a write to FMTID the one the identifier decodes to,
each on the state with the move taken off the list. -/
def Obligations.StepRunsTheDecodedOperation : Prop :=
  ∀ (s : State) (i : Instr) (rest : List Turn), s.rst = false →
    (s.turns = .sequencer :: rest → decodeCode (.phase s.phase) = .ok i →
      step s = exec i { s with turns := rest }) ∧
    (∀ v, s.turns = .host (.csrWrite 0x20#32 .word v) :: rest → decodeCode (.cmd v) = .ok i →
      step s = exec i { s with turns := rest }) ∧
    (∀ v, s.turns = .host (.csrWrite 0x04#32 .word v) :: rest → decodeCode (.fmt v) = .ok i →
      step s = exec i { s with turns := rest })

/-- R120 (IDLE row), R72, R252: an idle block takes no step on a sequencer turn, and with no move to
come nothing happens. -/
def Obligations.IdleBlockTakesNoStep : Prop :=
  ∀ (s : State) (rest : List Turn),
    (s.phase = Phase.idle → s.turns = .sequencer :: rest → step s = .next { s with turns := rest }) ∧
    (s.turns = [] → step s = .next s)

/-! ### Host commands and the format identifier -/

/-- R110: NOP changes no state, busy or idle. -/
def Obligations.NopChangesNothing : Prop :=
  ∀ s : State, exec .nop s = .next s

/-- R113: a reserved command value changes nothing but that the host's move is over. -/
def Obligations.ReservedCommandChangesNothing : Prop :=
  ∀ (s : State) (v : Word) (rest : List Turn), v ≠ 0#32 → v ≠ 1#32 → v ≠ 2#32 →
    s.turns = .host (.csrWrite 0x20#32 .word v) :: rest → step s = .next { s with turns := rest }

/-- R111: what DECODE writes when the block is idle, and nothing else; it is taken only then. -/
def Obligations.DecodeCommandStartsParsing : Prop :=
  ∀ s : State,
    (s.phase = Phase.idle → exec .decode s = .next
      { s with
        done := false, errcode := 0#4, dir := false
        magic := 0#32, fmtid := 0#32, width := 0#32, height := 0#32, pixbits := 0#32, payoff := 0#32
        hcnt := 0#7, phase := Phase.dHdr }) ∧
    (s.phase ≠ Phase.idle → exec .decode s = .next s)

/-- R112: ENCODE of an idle block clears the old result, sets DIR, checks format, width, height in that
order, and starts the header when all pass; it is taken only then. -/
def Obligations.EncodeCommandChecksThenStarts : Prop :=
  ∀ s : State,
    (s.phase ≠ Phase.idle → exec .encode s = .next s) ∧
    (s.phase = Phase.idle → exec .encode s = .next
      (if s.fmtid ≠ 8#32 then
        { s with done := false, errcode := 3#4, dir := true, phase := Phase.idle }
      else if s.width.toNat % 8 ≠ 0 then
        { s with done := false, errcode := 6#4, dir := true, phase := Phase.idle }
      else if s.height.toNat % 8 ≠ 0 then
        { s with done := false, errcode := 7#4, dir := true, phase := Phase.idle }
      else
        { s with done := false, errcode := 0#4, dir := true, hcnt := 0#7, phase := Phase.eHdr }))

/-- R84, R6, R117: the identifier 8, written while idle, is held by FMTID and nothing else changes;
written while busy it changes nothing; 8 is the only identifier that resolves; A8 declares 8 bits, unpacks by R195 and packs by R208. (That the
row FMT.A8 is run by a host write is the model's choice, log 9.) -/
def Obligations.FormatIdentifierSelectsA8 : Prop :=
  (∀ s : State, s.phase = Phase.idle → exec .fmtA8 s = .next { s with fmtid := 8#32 }) ∧
  (∀ s : State, s.phase ≠ Phase.idle → exec .fmtA8 s = .next s) ∧
  (∀ id, resolve id = if id = 8#32 then some .a8 else none) ∧
  declaredBits 8#32 = 8#32 ∧ Variant.unpack .a8 = unpackA8 ∧ Variant.pack .a8 = packA8

/-! ### Header parser -/

/-- R33: the byte goes to its place in ACC, the other three bytes stay. -/
def Obligations.AccumulatorTakesOneByte : Prop :=
  ∀ (acc : Word) (b : Byte) (j k : Nat), j < 4 → k < 4 →
    byteOf (insertByte acc j b) k = if k = j then b else byteOf acc k

/-- R131, first lines: a byte that does not complete a field goes to ACC and HCNT counts it; nothing
else changes. -/
def Obligations.HeaderByteInsideField : Prop :=
  ∀ (s : State) (b : Byte) (rest : List InAnswer),
    s.source = .byte b :: rest → s.hcnt.toNat % 4 ≠ 3 → s.hcnt.toNat < 27 →
    exec .stepDHdr s = .next
      { s with
        source := rest, trace := .inByte b :: s.trace
        acc := insertByte s.acc (s.hcnt.toNat % 4) b, hcnt := s.hcnt + 1#7 }

/-- R132 to R137: the byte that completes a field puts the whole field in its register: the right magic,
the identifier 8, any width, height and pixel bit length; the reserved field goes nowhere. -/
def Obligations.HeaderFieldLands : Prop :=
  ∀ (s : State) (b : Byte) (rest : List InAnswer), s.source = .byte b :: rest →
    let v := insertByte s.acc 3 b
    let s1 := { s with source := rest, trace := .inByte b :: s.trace, acc := v }
    (s.hcnt = 3#7 → v = 0x65746300#32 → exec .stepDHdr s = .next { s1 with magic := v, hcnt := 4#7 }) ∧
    (s.hcnt = 7#7 → v = 8#32 → exec .stepDHdr s = .next { s1 with fmtid := v, hcnt := 8#7 }) ∧
    (s.hcnt = 11#7 → exec .stepDHdr s = .next { s1 with width := v, hcnt := 12#7 }) ∧
    (s.hcnt = 15#7 → exec .stepDHdr s = .next { s1 with height := v, hcnt := 16#7 }) ∧
    (s.hcnt = 19#7 → exec .stepDHdr s = .next { s1 with pixbits := v, hcnt := 20#7 }) ∧
    (s.hcnt = 23#7 → exec .stepDHdr s = .next { s1 with hcnt := 24#7 })

/-- R132, R133, R222, R223: a wrong magic and an unknown identifier are kept in their registers and
raise InvalidHeader and UnsupportedFormat; HCNT stays. -/
def Obligations.HeaderFieldFaults : Prop :=
  ∀ (s : State) (b : Byte) (rest : List InAnswer), s.source = .byte b :: rest →
    let v := insertByte s.acc 3 b
    let s1 := { s with source := rest, trace := .inByte b :: s.trace, acc := v }
    (s.hcnt = 3#7 → v ≠ 0x65746300#32 →
      exec .stepDHdr s = .next { s1 with magic := v, errcode := 2#4, phase := Phase.idle }) ∧
    (s.hcnt = 7#7 → v ≠ 8#32 →
      exec .stepDHdr s = .next { s1 with fmtid := v, errcode := 3#4, phase := Phase.idle })

/-- R138, R139, R140: the last header byte gives PAYOFF; the pixel length is checked, then the payload
offset; then SKIP is loaded and the padding begins, or is complete at once when there is none. -/
def Obligations.HeaderEndChecks : Prop :=
  ∀ (s : State) (b : Byte) (rest : List InAnswer),
    s.source = .byte b :: rest → s.hcnt = 27#7 → s.fmtid = 8#32 →
    let v := insertByte s.acc 3 b
    let s1 := { s with source := rest, trace := .inByte b :: s.trace, acc := v, payoff := v }
    exec .stepDHdr s = .next
      (if s.pixbits ≠ 8#32 then { s1 with errcode := 5#4, phase := Phase.idle }
      else if v.toNat < 28 then { s1 with errcode := 4#4, phase := Phase.idle }
      else if v.toNat = 28 then State.paddingComplete { s1 with skip := 0#32 }
      else { s1 with skip := BitVec.ofNat 32 (v.toNat - 28), phase := Phase.dPad })

/-- R131, R82, R33, and R132 to R140 for what the field then does: four bytes of a field from its first
offset make its little-endian value. After the four sequencer turns the register of each of the seven
fields holds `u32(b0, b1, b2, b3)` (the reserved field goes nowhere), its check has been made, and HCNT
has moved on where the check passed. -/
def Obligations.FourHeaderBytesMakeAField : Prop :=
  ∀ (s : State) (b0 b1 b2 b3 : Byte) (rest : List InAnswer) (more : List Turn),
    s.phase = Phase.dHdr → s.rst = false →
    s.source = .byte b0 :: .byte b1 :: .byte b2 :: .byte b3 :: rest →
    s.turns = List.replicate 4 .sequencer ++ more →
    let v := u32 b0 b1 b2 b3
    let s1 := { s with
      source := rest, turns := more, acc := v
      trace := .inByte b3 :: .inByte b2 :: .inByte b1 :: .inByte b0 :: s.trace }
    (s.hcnt = 0#7 → Host.Core.run Sys2Proof.core 4 s = .next
      (if v = 0x65746300#32 then { s1 with magic := v, hcnt := 4#7 }
      else { s1 with magic := v, hcnt := 3#7, errcode := 2#4, phase := Phase.idle })) ∧
    (s.hcnt = 4#7 → Host.Core.run Sys2Proof.core 4 s = .next
      (if v = 8#32 then { s1 with fmtid := v, hcnt := 8#7 }
      else { s1 with fmtid := v, hcnt := 7#7, errcode := 3#4, phase := Phase.idle })) ∧
    (s.hcnt = 8#7 → Host.Core.run Sys2Proof.core 4 s = .next { s1 with width := v, hcnt := 12#7 }) ∧
    (s.hcnt = 12#7 → Host.Core.run Sys2Proof.core 4 s = .next { s1 with height := v, hcnt := 16#7 }) ∧
    (s.hcnt = 16#7 → Host.Core.run Sys2Proof.core 4 s = .next { s1 with pixbits := v, hcnt := 20#7 }) ∧
    (s.hcnt = 20#7 → Host.Core.run Sys2Proof.core 4 s = .next { s1 with hcnt := 24#7 }) ∧
    (s.hcnt = 24#7 → s.fmtid = 8#32 → Host.Core.run Sys2Proof.core 4 s = .next
      (let s2 := { s1 with payoff := v, hcnt := 27#7 }
      if s.pixbits ≠ 8#32 then { s2 with errcode := 5#4, phase := Phase.idle }
      else if v.toNat < 28 then { s2 with errcode := 4#4, phase := Phase.idle }
      else if v.toNat = 28 then State.paddingComplete { s2 with skip := 0#32 }
      else { s2 with skip := BitVec.ofNat 32 (v.toNat - 28), phase := Phase.dPad }))

/-- R143: a padding byte is consumed and dropped, whatever it is; SKIP counts down; the byte that brings
it to 0 completes the padding. -/
def Obligations.PaddingByteStep : Prop :=
  ∀ (s : State) (b : Byte) (rest : List InAnswer), s.source = .byte b :: rest → 1 ≤ s.skip.toNat →
    let s1 := { s with
      source := rest, trace := .inByte b :: s.trace, skip := BitVec.ofNat 32 (s.skip.toNat - 1) }
    exec .stepDPad s = .next (if s.skip = 1#32 then s1.paddingComplete else s1)

/-- R141: the width check, then the height check, then the hand-over to the blocks. -/
def Obligations.PaddingCompleteChecks : Prop :=
  ∀ s : State, s.paddingComplete =
    if s.width.toNat % 8 ≠ 0 then { s with errcode := 6#4, phase := Phase.idle }
    else if s.height.toNat % 8 ≠ 0 then { s with errcode := 7#4, phase := Phase.idle }
    else s.startBlocks Phase.dFill

/-! ### Blocks -/

/-- R181: an image with no blocks ends the operation; otherwise the first block is the leftmost of the
bottom block-row. -/
def Obligations.StartBlocksRule : Prop :=
  ∀ (s : State) (p : BitVec 4), s.startBlocks p =
    if s.width.toNat / 8 = 0 ∨ s.height.toNat / 8 = 0 then
      { s with phase := Phase.idle, done := true }
    else
      { s with bX := 0#29, bY := BitVec.ofNat 29 (s.height.toNat / 8 - 1), idx := 0#6, phase := p }

/-- R182, R179: the next block is the one to the right, or the leftmost of the block-row above, or none;
for a block inside the image the number in file order goes up by one, and the last block has the
highest number. -/
def Obligations.NextBlockRule : Prop :=
  ∀ (s : State) (p : BitVec 4),
    (s.nextBlock p =
      if s.bX.toNat + 1 < s.width.toNat / 8 then
        { s with idx := 0#6, bX := s.bX + 1#29, phase := p }
      else if 0 < s.bY.toNat then
        { s with idx := 0#6, bX := 0#29, bY := s.bY - 1#29, phase := p }
      else { s with idx := 0#6, phase := Phase.idle, done := true }) ∧
    (s.InBlocks → p ≠ Phase.idle →
      let g := groupOf s.width s.height s.bX s.bY
      let t := s.nextBlock p
      if g + 1 < (s.width.toNat / 8) * (s.height.toNat / 8) then
        t.phase = p ∧ t.InBlocks ∧ groupOf t.width t.height t.bX t.bY = g + 1
      else t.phase = Phase.idle ∧ t.done = true)

/-- R190: a payload byte lands in BLK[IDX]; after the 64th the block is drained. -/
def Obligations.FillStep : Prop :=
  ∀ (s : State) (b : Byte) (rest : List InAnswer), s.source = .byte b :: rest →
    let s1 := { s with
      source := rest, trace := .inByte b :: s.trace
      blk := s.blk.set s.idx.toNat b s.idx.isLt }
    exec .stepDFill s = .next
      (if s.idx.toNat < 63 then { s1 with idx := s.idx + 1#6 }
      else { s1 with idx := 0#6, phase := Phase.dDrain })

/-- R192, R58: one pixel is written, the unpacked BLK[IDX] at `(8·BX + dx, 8·BY + dy)` with
`(dx, dy) = T(IDX)`; that pixel reads back, every other byte of the raster reads as before; then the
next pixel or the next block. -/
def Obligations.DrainStep : Prop :=
  ∀ s : State,
    let x : Word := s.bX ++ (traversal s.idx).1
    let y : Word := s.bY ++ (traversal s.idx).2
    let px := unpackA8 (s.blk[s.idx.toNat]'s.idx.isLt)
    ∃ m : Memory,
      m.pixel x y = px ∧
      (∀ a, (∀ c < 4, a ≠ rasAddr x y c) → m.read a = s.raster.read a) ∧
      let s1 := { s with raster := m, trace := .rasWrite x y px :: s.trace }
      exec .stepDDrain s = .next
        (if s.idx.toNat < 63 then { s1 with idx := s.idx + 1#6 } else s1.nextBlock Phase.dFill)

/-- R58, R56: writing a pixel changes that pixel and no other. -/
def Obligations.PixelWriteReadsBack : Prop :=
  ∀ (m : Memory) (x y x' y' : Word) (px : Pixel),
    (m.setPixel x y px).pixel x' y' = if x' = x ∧ y' = y then px else m.pixel x' y'

/-- R161: the byte of HCNT is sent; accepted, HCNT counts it, and after byte 127 the blocks begin. -/
def Obligations.EmitHeaderByteStep : Prop :=
  ∀ (s : State) (more : List OutAnswer),
    s.sink.answers = .ok :: more ∨ (s.sink.answers = [] ∧ s.sink.thereafter = .ok ∧ more = []) →
    let b := headerByte s.fmtid s.width s.height s.hcnt.toNat
    let s1 := { s with
      sink := { s.sink with answers := more }, trace := .outOk b :: s.trace }
    exec .stepEHdr s = .next
      (if s.hcnt.toNat < 127 then { s1 with hcnt := s.hcnt + 1#7 } else s1.startBlocks Phase.eGather)

/-- R93, R162: the 128 bytes of the header for format 8. -/
def Obligations.HeaderBytesOfEncode : Prop :=
  ∀ w h : Word, canonicalHeader 8#32 w h =
    [0x00, 0x63, 0x74, 0x65, 0x08, 0, 0, 0,
     w.extractLsb' 0 8, w.extractLsb' 8 8, w.extractLsb' 16 8, w.extractLsb' 24 8,
     h.extractLsb' 0 8, h.extractLsb' 8 8, h.extractLsb' 16 8, h.extractLsb' 24 8,
     0x08, 0, 0, 0, 0, 0, 0, 0, 0x80, 0, 0, 0] ++ List.replicate 100 0

/-- R205, R59: one pixel is read at `(8·BX + dx, 8·BY + dy)`, its packed byte lands in BLK[IDX], the
raster keeps every byte; after the 64th the block is emitted. -/
def Obligations.GatherStep : Prop :=
  ∀ s : State,
    let x : Word := s.bX ++ (traversal s.idx).1
    let y : Word := s.bY ++ (traversal s.idx).2
    let px := s.raster.pixel x y
    let s1 := { s with
      trace := .rasRead x y px :: s.trace
      blk := s.blk.set s.idx.toNat (packA8 px) s.idx.isLt }
    exec .stepEGather s = .next
      (if s.idx.toNat < 63 then { s1 with idx := s.idx + 1#6 }
      else { s1 with idx := 0#6, phase := Phase.eEmit })

/-- R210: BLK[IDX] is sent; accepted, the next byte or the next block follows. -/
def Obligations.EmitStep : Prop :=
  ∀ (s : State) (more : List OutAnswer),
    s.sink.answers = .ok :: more ∨ (s.sink.answers = [] ∧ s.sink.thereafter = .ok ∧ more = []) →
    let s1 := { s with
      sink := { s.sink with answers := more }
      trace := .outOk (s.blk[s.idx.toNat]'s.idx.isLt) :: s.trace }
    exec .stepEEmit s = .next
      (if s.idx.toNat < 63 then { s1 with idx := s.idx + 1#6 } else s1.nextBlock Phase.eGather)

/-! ### Errors, status, CSR access, reset -/

/-- R221, R228, R52, R55: a transfer answered `Fail` (the end of the stream among them) raises IOError:
ERRCODE 1, PHASE IDLE, and beside the port's own answer nothing changes. -/
def Obligations.FailedTransferRaisesIOError : Prop :=
  ∀ s : State,
    (∀ (i : Instr) (rest : List InAnswer), i = .stepDHdr ∨ i = .stepDPad ∨ i = .stepDFill →
      s.source = .fail :: rest ∨ (s.source = [] ∧ rest = []) →
      exec i s = .next
        { s with source := rest, trace := .inFail :: s.trace, errcode := 1#4, phase := Phase.idle }) ∧
    (∀ more : List OutAnswer,
      s.sink.answers = .fail :: more ∨
        (s.sink.answers = [] ∧ s.sink.thereafter = .fail ∧ more = []) →
      exec .stepEHdr s = .next
        { s with
          sink := { s.sink with answers := more }
          trace := .outFail (headerByte s.fmtid s.width s.height s.hcnt.toNat) :: s.trace
          errcode := 1#4, phase := Phase.idle } ∧
      exec .stepEEmit s = .next
        { s with
          sink := { s.sink with answers := more }
          trace := .outFail (s.blk[s.idx.toNat]'s.idx.isLt) :: s.trace
          errcode := 1#4, phase := Phase.idle })

/-- R220, R228, R122: the codes of the seven errors; taking an error writes ERRCODE and PHASE, the
successful end writes PHASE and DONE, and neither writes anything else. -/
def Obligations.RaiseAndFinishWriteNoMore : Prop :=
  (Error.code .ioError = 1#4 ∧ Error.code .invalidHeader = 2#4 ∧ Error.code .unsupportedFormat = 3#4 ∧
    Error.code .payloadStartsTooSoon = 4#4 ∧ Error.code .pixelLengthInvalid = 5#4 ∧
    Error.code .widthNotMultipleOf8 = 6#4 ∧ Error.code .heightNotMultipleOf8 = 7#4) ∧
  (∀ (s : State) (e : Error), s.raise e = { s with errcode := e.code, phase := Phase.idle }) ∧
  (∀ s : State, s.finish = { s with phase := Phase.idle, done := true })

/-- R32, and the table of R30: the fields of STATUS, and the three wires that mirror it. -/
def Obligations.StatusWordLayout : Prop :=
  ∀ s : State,
    s.status.getLsbD 0 = (s.phase != Phase.idle) ∧ s.status.getLsbD 1 = s.done ∧
    s.status.getLsbD 2 = (s.errcode != 0#4) ∧ s.status.getLsbD 3 = s.dir ∧
    s.status.extractLsb' 4 4 = s.errcode ∧ s.status.extractLsb' 8 4 = s.phase ∧
    s.status.extractLsb' 12 20 = 0#20 ∧
    s.wires = (s.status.getLsbD 0, s.status.getLsbD 1, s.status.getLsbD 2)

/-- R116, R60: what a host read returns at every offset and size, and that it changes nothing but that
the host has seen the value. -/
def Obligations.CsrReadTable : Prop :=
  ∀ (s : State) (off : Word) (size : AccessSize) (rest : List Turn),
    s.turns = .host (.csrRead off size) :: rest →
    ∃ v : Word,
      step s = .next { s with turns := rest, trace := .csrRead off v :: s.trace } ∧
      (size = .word →
        (off = 0x00#32 → v = s.magic) ∧ (off = 0x04#32 → v = s.fmtid) ∧ (off = 0x08#32 → v = s.width) ∧
        (off = 0x0C#32 → v = s.height) ∧ (off = 0x10#32 → v = s.pixbits) ∧ (off = 0x14#32 → v = 0#32) ∧
        (off = 0x18#32 → v = s.payoff) ∧ (off = 0x1C#32 → v = 0#32) ∧ (off = 0x20#32 → v = 0#32) ∧
        (off = 0x24#32 → v = 0#20 ++ s.phase ++ s.errcode ++ BitVec.ofBool s.dir ++
          BitVec.ofBool (s.errcode != 0#4) ++ BitVec.ofBool s.done ++
          BitVec.ofBool (s.phase != 0#4))) ∧
      (size ≠ .word ∨ 0x28 ≤ off.toNat ∨ off.toNat % 4 ≠ 0 → v = 0#32)

/-- R117, R60: what a host write does when `rst` is released: to CMD, the command; to FMTID, WIDTH,
HEIGHT of an idle block, the value is held; anything else changes nothing. -/
def Obligations.CsrWriteRule : Prop :=
  ∀ (s : State) (off v : Word) (size : AccessSize) (rest : List Turn), s.rst = false →
    s.turns = .host (.csrWrite off size v) :: rest →
    let s1 := { s with turns := rest }
    step s =
      if size ≠ .word then .next s1
      else if off = 0x20#32 then
        (if v = 0#32 then exec .nop s1 else if v = 1#32 then exec .decode s1
        else if v = 2#32 then exec .encode s1 else .next s1)
      else if s.phase = Phase.idle ∧ off = 0x04#32 then .next { s1 with fmtid := v }
      else if s.phase = Phase.idle ∧ off = 0x08#32 then .next { s1 with width := v }
      else if s.phase = Phase.idle ∧ off = 0x0C#32 then .next { s1 with height := v }
      else .next s1

/-- R39: the state after reset, as the table gives it: every register, counter and flag 0, STATUS reads
0, the wires are low. (BLK is unspecified there; the statement says nothing of it, log 4.) -/
def Obligations.ResetState : Prop :=
  State.reset.AtReset ∧ State.reset.status = 0#32 ∧ State.reset.wires = (false, false, false)

/-- R250, R251: asserting `rst` at any time puts the block in its reset state, with no DONE and no
error; what the ports have carried and what lies outside the block stays. -/
def Obligations.RstAssertionResetsTheBlock : Prop :=
  ∀ (s : State) (rest : List Turn), s.turns = .host .rstAssert :: rest →
    ∃ t : State, step s = .next t ∧ t.AtReset ∧ t.rst = true ∧ t.turns = rest ∧
      t.source = s.source ∧ t.sink = s.sink ∧ t.raster = s.raster ∧ t.trace = s.trace

/-- R250, R233: while `rst` is asserted nothing but its assertion anew changes the block; only the
agents around it move. R250 says that the state has its reset values for as long; that no command, no
CSR write and no sequencer step has an effect then is read from that (DEDUCED, log 3), and that BLK,
which R39 leaves unspecified, keeps its bytes meanwhile is the model's choice (log 5). -/
def Obligations.RstHoldsTheBlock : Prop :=
  ∀ s t : State, s.rst = true → s.turns.head? ≠ some (.host .rstAssert) → step s = .next t →
    t = { s with
      turns := t.turns, trace := t.trace, rst := t.rst
      source := t.source, sink := t.sink, raster := t.raster }

/-! ### Pixels, traversal, payload position -/

/-- R195: luminance `v / 16` in R, G and B, alpha `(v mod 16)·16`. -/
def Obligations.UnpackA8Rule : Prop :=
  ∀ v : Byte,
    (unpackA8 v).r.toNat = v.toNat / 16 ∧ (unpackA8 v).g.toNat = v.toNat / 16 ∧
    (unpackA8 v).b.toNat = v.toNat / 16 ∧ (unpackA8 v).a.toNat = v.toNat % 16 * 16

/-- R208: the exact sum, its third, shifted, plus the high half of A, the low 8 bits; which is the low
half of the average beside the high half of A. -/
def Obligations.PackA8Rule : Prop :=
  ∀ px : Pixel,
    let lum := (px.r.toNat + px.g.toNat + px.b.toNat) / 3
    (packA8 px).toNat = (lum * 16 + px.a.toNat / 16) % 256 ∧
    packA8 px = (BitVec.ofNat 4 lum : BitVec 4) ++ (px.a.extractLsb' 4 4 : BitVec 4)

/-- R209: packing undoes unpacking for every byte; unpacking undoes packing exactly for the pixels with
equal channels of at most 15 and an alpha that is a multiple of 16. -/
def Obligations.PackAndUnpackInverses : Prop :=
  (∀ v : Byte, packA8 (unpackA8 v) = v) ∧
  (∀ px : Pixel, unpackA8 (packA8 px) = px ↔
    px.r = px.g ∧ px.g = px.b ∧ px.r.toNat ≤ 15 ∧ px.a.toNat % 16 = 0)

/-- R175: the table, its 64 pairs written out. -/
def Obligations.TraversalTable : Prop :=
  (List.range 64).map (fun i =>
    ((traversal (BitVec.ofNat 6 i)).1.toNat, (traversal (BitVec.ofNat 6 i)).2.toNat)) =
    [(0,7), (1,7), (0,6), (1,6), (2,7), (3,7), (2,6), (3,6),
     (0,5), (1,5), (0,4), (1,4), (2,5), (3,5), (2,4), (3,4),
     (4,7), (5,7), (4,6), (5,6), (6,7), (7,7), (6,6), (7,6),
     (4,5), (5,5), (4,4), (5,4), (6,5), (7,5), (6,4), (7,4),
     (0,3), (1,3), (0,2), (1,2), (2,3), (3,3), (2,2), (3,2),
     (0,1), (1,1), (0,0), (1,0), (2,1), (3,1), (2,0), (3,0),
     (4,3), (5,3), (4,2), (5,2), (6,3), (7,3), (6,2), (7,2),
     (4,1), (5,1), (4,0), (5,0), (6,1), (7,1), (6,0), (7,0)]

/-- R89, R177: the bit form of T, and that `idx` is its inverse both ways. -/
def Obligations.TraversalIsABijection : Prop :=
  (∀ i : BitVec 6, traversal i =
    (i.extractLsb' 4 1 ++ i.extractLsb' 2 1 ++ i.extractLsb' 0 1,
      ~~~(i.extractLsb' 5 1 ++ i.extractLsb' 3 1 ++ i.extractLsb' 1 1))) ∧
  (∀ i : BitVec 6, travIndex (traversal i).1 (traversal i).2 = i) ∧
  (∀ dx dy : BitVec 3, traversal (travIndex dx dy) = (dx, dy))

/-- R86, R180, R183, R57: for an image of multiples of 8, the pixel of index `i` of block `(bx, by)` is
inside the image at payload position `64·g + i`; the positions of the pixels are the numbers below
`WIDTH·HEIGHT`, each once. -/
def Obligations.PayloadPositionIsABijection : Prop :=
  ∀ w h : Word, w.toNat % 8 = 0 → h.toNat % 8 = 0 →
    (∀ (bx by' : BitVec 29) (i : BitVec 6), bx.toNat < w.toNat / 8 → by'.toNat < h.toNat / 8 →
      (pixelAt bx by' i).1.toNat = 8 * bx.toNat + (traversal i).1.toNat ∧
      (pixelAt bx by' i).2.toNat = 8 * by'.toNat + (traversal i).2.toNat ∧
      (pixelAt bx by' i).1.toNat < w.toNat ∧ (pixelAt bx by' i).2.toNat < h.toNat ∧
      payloadPos w h (pixelAt bx by' i).1 (pixelAt bx by' i).2 =
        64 * ((h.toNat / 8 - 1 - by'.toNat) * (w.toNat / 8) + bx.toNat) + i.toNat) ∧
    (∀ x y : Word, x.toNat < w.toNat → y.toNat < h.toNat →
      payloadPos w h x y < w.toNat * h.toNat) ∧
    (∀ x y x' y' : Word, x.toNat < w.toNat → y.toNat < h.toNat → x'.toNat < w.toNat →
      y'.toNat < h.toNat → payloadPos w h x y = payloadPos w h x' y' → x = x' ∧ y = y') ∧
    (∀ k, k < w.toNat * h.toNat →
      ∃ x y : Word, x.toNat < w.toNat ∧ y.toNat < h.toNat ∧ payloadPos w h x y = k)

/-! ### Whole-machine rules -/

/-- R38, and the facts its items rest on: every step keeps the invariant, whatever agent moves. -/
def Obligations.InvariantKeptByEveryStep : Prop :=
  ∀ s t : State, s.Inv → step s = .next t → t.Inv

/-- R38, R39: the invariant holds after reset, whatever is attached to the ports and whatever moves are
to come. -/
def Obligations.InvariantAtReset : Prop :=
  ∀ (turns : List Turn) (source : List InAnswer) (k : Sink) (m : Memory), m.wf →
    State.Inv { State.reset with turns := turns, source := source, sink := k, raster := m }

/-- R31 with R38: under the invariant a step never stops: no PHASE is outside the table. -/
def Obligations.StepNeverStops : Prop :=
  ∀ s : State, s.Inv → ∃ t, step s = .next t

/-- 95_test_vectors.md, the table of STATUS values, from R30, R31, R38: these 21 are all the values
STATUS can take. -/
def Obligations.OnlyTheseStatusValues : Prop :=
  ∀ s : State, s.Inv → s.status ∈
    [0x00000000#32, 0x00000101#32, 0x00000201#32, 0x00000301#32, 0x00000401#32, 0x00000509#32,
     0x00000609#32, 0x00000709#32, 0x00000002#32, 0x0000000A#32, 0x00000014#32, 0x00000024#32,
     0x00000034#32, 0x00000044#32, 0x00000054#32, 0x00000064#32, 0x00000074#32, 0x0000001C#32,
     0x0000003C#32, 0x0000006C#32, 0x0000007C#32]

/-- R38 item 1: at most one of BUSY, DONE, ERR is 1; one of them, once 1, stays so (itself or in
another's place) until `rst`; from all three 0 only a DECODE or ENCODE command leads away. -/
def Obligations.OneOutcomeFromFirstCommandOn : Prop :=
  ∀ s t : State, s.Inv → step s = .next t →
    (s.busy = true → s.done = false ∧ s.err = false) ∧ (s.done = true → s.err = false) ∧
    (s.hasOutcome = true → s.turns.head? ≠ some (.host .rstAssert) → t.hasOutcome = true) ∧
    (s.hasOutcome = false → t.hasOutcome = true →
      s.turns.head? = some (.host (.csrWrite 0x20#32 .word 1#32)) ∨
      s.turns.head? = some (.host (.csrWrite 0x20#32 .word 2#32)))

/-- R114: one operation at a time. A DECODE or ENCODE command changes nothing while an operation runs,
and a running operation ends only by `finish()`, by an error, or by `rst`. -/
def Obligations.OneOperationAtATime : Prop :=
  ∀ s : State, s.phase ≠ Phase.idle →
    (exec .decode s = .next s ∧ exec .encode s = .next s) ∧
    (∀ t : State, step s = .next t → t.phase = Phase.idle →
      t.done = true ∨ t.errcode ≠ 0#4 ∨ s.turns.head? = some (.host .rstAssert))

/-- R121, the whole table. From and To: no step changes PHASE but as the table says, to IDLE from
E_GATHER only by `rst`. Event: a DECODE or an ENCODE that is taken, a sequencer step with each answer of
its port, each counter value and each check, and `rst` lead where their row says, with DONE or with
the error the row names; every other move leaves PHASE, DONE and ERRCODE as they are. (A move is the
head of the list `turns`, log 1; under `rst` no command is taken and no step occurs, log 3.) -/
def Obligations.PhaseTransitions : Prop :=
  ∀ s t : State, s.Inv → step s = .next t →
    (t.phase ≠ s.phase →
      (s.phase, t.phase) ∈
        [(Phase.idle, Phase.dHdr), (Phase.idle, Phase.eHdr),
         (Phase.dHdr, Phase.idle), (Phase.dHdr, Phase.dPad), (Phase.dHdr, Phase.dFill),
         (Phase.dPad, Phase.idle), (Phase.dPad, Phase.dFill),
         (Phase.dFill, Phase.idle), (Phase.dFill, Phase.dDrain),
         (Phase.dDrain, Phase.idle), (Phase.dDrain, Phase.dFill),
         (Phase.eHdr, Phase.idle), (Phase.eHdr, Phase.eGather),
         (Phase.eGather, Phase.eEmit),
         (Phase.eEmit, Phase.idle), (Phase.eEmit, Phase.eGather)] ∨
      (s.phase = Phase.eGather ∧ t.phase = Phase.idle ∧ t.rst = true)) ∧
    (if s.turns.head? = some (.host .rstAssert) then t.AtReset
    else if s.rst = false ∧ s.phase = Phase.idle ∧
        s.turns.head? = some (.host (.csrWrite 0x20#32 .word 1#32)) then t.isIn Phase.dHdr
    else if s.rst = false ∧ s.phase = Phase.idle ∧
        s.turns.head? = some (.host (.csrWrite 0x20#32 .word 2#32)) then s.encodeRows t
    else if s.rst = false ∧ s.phase ≠ Phase.idle ∧ s.turns.head? = some .sequencer then
      s.sequencerRows t
    else t.phase = s.phase ∧ t.done = s.done ∧ t.errcode = s.errcode)

/-- R66 item 1, R120: a step of the sequencer is one transfer, on the port its phase names. -/
def Obligations.OneTransferPerSequencerStep : Prop :=
  ∀ (s t : State) (rest : List Turn), s.turns = .sequencer :: rest → s.rst = false →
    s.phase ≠ Phase.idle → step s = .next t →
    ∃ e : Event, t.trace = e :: s.trace ∧
      (s.phase = Phase.dHdr ∨ s.phase = Phase.dPad ∨ s.phase = Phase.dFill → Event.isIn e = true) ∧
      (s.phase = Phase.dDrain → Event.isRasWrite e = true) ∧
      (s.phase = Phase.eHdr ∨ s.phase = Phase.eEmit → Event.isOut e = true) ∧
      (s.phase = Phase.eGather → Event.isRasRead e = true)

/-- R229, R53, R120: no transfer happens in an idle block, nor on any turn that is not the
sequencer's: the ports show at most a host CSR read. -/
def Obligations.NoTransferWithoutTheSequencer : Prop :=
  ∀ s t : State, s.phase = Phase.idle ∨ s.turns.head? ≠ some .sequencer → step s = .next t →
    ∃ new : List Event, t.trace = new ++ s.trace ∧ ∀ e ∈ new, Event.isTransfer e = false

/-- R67, R70, R114, R117: while an operation runs, no host action but `rst` changes the block, the
streams or the raster. -/
def Obligations.HostCannotDisturbARunningOperation : Prop :=
  ∀ (s t : State) (a : HostAct) (rest : List Turn), s.phase ≠ Phase.idle →
    s.turns = .host a :: rest → a ≠ .rstAssert → step s = .next t →
    t = { s with turns := t.turns, trace := t.trace, rst := t.rst }

/-- R22 to R25, R27, R164, R112: ENCODE and its steps write none of the six header registers, take
nothing from the IN stream and leave the raster as it is. -/
def Obligations.EncodeKeepsRegistersAndRaster : Prop :=
  ∀ (i : Instr) (s t : State),
    i = .encode ∨ i = .stepEHdr ∨ i = .stepEGather ∨ i = .stepEEmit → exec i s = .next t →
    t.magic = s.magic ∧ t.fmtid = s.fmtid ∧ t.width = s.width ∧ t.height = s.height ∧
    t.pixbits = s.pixbits ∧ t.payoff = s.payoff ∧ t.source = s.source ∧
    (∀ a, t.raster.read a = s.raster.read a)

/-! ### Whole operations -/

/-- R190 to R193: 64 payload bytes and 128 sequencer turns turn one block into its 64 pixels, write no
other pixel, and go on with `next_block`. -/
def Obligations.OneBlockDecodes : Prop :=
  ∀ (s : State) (bs : List Byte) (rest : List InAnswer) (more : List Turn),
    s.phase = Phase.dFill → s.idx = 0#6 → s.rst = false → bs.length = 64 →
    s.source = bs.map .byte ++ rest → s.turns = List.replicate 128 .sequencer ++ more →
    ∃ t : State, Host.Core.run Sys2Proof.core 128 s = .next t ∧
      t.source = rest ∧ t.turns = more ∧
      (∀ i : BitVec 6, t.raster.pixel (pixelAt s.bX s.bY i).1 (pixelAt s.bX s.bY i).2 =
        unpackA8 (bs.getD i.toNat 0)) ∧
      (∀ x y : Word, (∀ i : BitVec 6, pixelAt s.bX s.bY i ≠ (x, y)) →
        t.raster.pixel x y = s.raster.pixel x y) ∧
      t.phase = (s.nextBlock Phase.dFill).phase ∧ t.bX = (s.nextBlock Phase.dFill).bX ∧
      t.bY = (s.nextBlock Phase.dFill).bY ∧ t.done = (s.nextBlock Phase.dFill).done ∧ t.idx = 0#6

/-- R125, first half: what a DECODE that ended well guarantees, for every file, every order of the
host's accesses among the sequencer's steps, and every raster before it. -/
def Obligations.DecodeThatEndsWell : Prop :=
  ∀ (file : List Byte) (n : Nat) (s t : State),
    s.source = file.map .byte → runOperation Turn.sparesDecode n s.startDecode = some t →
    t.phase = Phase.idle → t.done = true → DecodedWell file s.raster t

/-- R191, R230, R221: a DECODE that an error ended has written the pixels of the blocks whose 64 bytes
it received, each block whole, and no other pixel: with a stream of these bytes and no more, that is
every whole block of payload in it for IOError, and none for the other errors. -/
def Obligations.FaultedDecodeKeepsWholeBlocks : Prop :=
  ∀ (file : List Byte) (n : Nat) (s t : State),
    s.source = file.map .byte → runOperation Turn.sparesDecode n s.startDecode = some t →
    t.phase = Phase.idle → t.errcode ≠ 0#4 →
    let g := if t.errcode = 1#4 then (file.length - t.payoff.toNat) / 64 else 0
    (∀ x y, t.inside x y → payloadPos t.width t.height x y < 64 * g → t.raster.pixel x y =
      unpackA8 (file.getD (t.payoff.toNat + payloadPos t.width t.height x y) 0)) ∧
    (∀ x y, ¬ (t.inside x y ∧ payloadPos t.width t.height x y < 64 * g) →
      t.raster.pixel x y = s.raster.pixel x y)

/-- R125, second half: what an ENCODE that ended well guarantees, for every image in the raster and
every sink. -/
def Obligations.EncodeThatEndsWell : Prop :=
  ∀ (n : Nat) (s t : State), s.phase = Phase.idle →
    runOperation Turn.sparesEncode n s.startEncode = some t →
    t.phase = Phase.idle → t.done = true → EncodedWell s t

/-- R262: the transfers of a DECODE and of an ENCODE that ended well, and the IN transfers of a DECODE
that an error ended. -/
def Obligations.TransferCounts : Prop :=
  ∀ (n : Nat) (s t : State),
    (runOperation Turn.sparesDecode n s.startDecode = some t → t.phase = Phase.idle →
      ∃ new : List Event, t.trace = new ++ s.trace ∧ new.countP Event.isOut = 0 ∧
        new.countP Event.isRasRead = 0 ∧
        (t.done = true →
          new.countP Event.isIn = t.payoff.toNat + t.payloadSize ∧
          new.countP Event.isRasWrite = t.payloadSize) ∧
        (t.errcode = 2#4 → new.countP Event.isIn = 4) ∧
        (t.errcode = 3#4 → new.countP Event.isIn = 8) ∧
        (t.errcode = 4#4 ∨ t.errcode = 5#4 → new.countP Event.isIn = 28) ∧
        (t.errcode = 6#4 ∨ t.errcode = 7#4 → new.countP Event.isIn = t.payoff.toNat) ∧
        (t.errcode = 1#4 →
          new.countP Event.isIn = new.countP (fun e => Event.isIn e && e != .inFail) + 1)) ∧
    (s.phase = Phase.idle → runOperation Turn.sparesEncode n s.startEncode = some t →
      t.phase = Phase.idle → t.done = true →
      ∃ new : List Event, t.trace = new ++ s.trace ∧ new.countP Event.isIn = 0 ∧
        new.countP Event.isRasWrite = 0 ∧
        new.countP Event.isOut = 128 + t.payloadSize ∧
        new.countP Event.isRasRead = t.payloadSize)

/-- R263, R72: an operation ends: given enough sequencer turns with nothing between them, every running
operation reaches IDLE. With good input it ends well: a DECODE command whose byte source holds a whole
good file (R125, R142, R163), and an ENCODE command whose checks pass and whose sink accepts every byte
(R112, R213), end with DONE = 1 and no error. -/
def Obligations.EveryOperationEnds : Prop :=
  (∀ s : State, s.Inv → s.rst = false → ∃ (n : Nat) (t : State),
    Host.Core.run Sys2Proof.core n { s with turns := List.replicate n .sequencer } = .next t ∧
    t.phase = Phase.idle) ∧
  (∀ (s : State) (file : List Byte) (rest : List InAnswer),
    s.phase = Phase.idle → s.rst = false → s.source = file.map .byte ++ rest →
    fileField file 0 = 0x65746300#32 → fileField file 4 = 8#32 →
    (fileField file 8).toNat % 8 = 0 → (fileField file 12).toNat % 8 = 0 →
    fileField file 16 = 8#32 → 28 ≤ (fileField file 24).toNat →
    (fileField file 24).toNat + (fileField file 8).toNat * (fileField file 12).toNat ≤ file.length →
    ∃ (n : Nat) (t : State),
      Host.Core.run Sys2Proof.core (n + 1)
        { s with turns := .host (.csrWrite 0x20#32 .word 1#32) :: List.replicate n .sequencer }
        = .next t ∧ t.isDone) ∧
  (∀ s : State,
    s.phase = Phase.idle → s.rst = false → s.fmtid = 8#32 → s.width.toNat % 8 = 0 →
    s.height.toNat % 8 = 0 → (∀ a ∈ s.sink.answers, a = .ok) → s.sink.thereafter = .ok →
    ∃ (n : Nat) (t : State),
      Host.Core.run Sys2Proof.core (n + 1)
        { s with turns := .host (.csrWrite 0x20#32 .word 2#32) :: List.replicate n .sequencer }
        = .next t ∧ t.isDone)

/-- R163: the 128 header bytes ENCODE writes, given to DECODE, pass every check and give back format,
width and height; 100 padding bytes are consumed; the payload follows, or DONE for an empty image. -/
def Obligations.HeaderRoundTrip : Prop :=
  ∀ (s : State) (w h : Word) (rest : List InAnswer) (more : List Turn),
    s.phase = Phase.idle → s.rst = false → w.toNat % 8 = 0 → h.toNat % 8 = 0 →
    s.source = (canonicalHeader 8#32 w h).map .byte ++ rest →
    s.turns = .host (.csrWrite 0x20#32 .word 1#32) :: (List.replicate 128 .sequencer ++ more) →
    ∃ t : State, Host.Core.run Sys2Proof.core 129 s = .next t ∧
      t.magic = 0x65746300#32 ∧ t.fmtid = 8#32 ∧ t.width = w ∧ t.height = h ∧ t.pixbits = 8#32 ∧
      t.payoff = 128#32 ∧ t.errcode = 0#4 ∧ t.source = rest ∧ t.turns = more ∧
      (if w = 0#32 ∨ h = 0#32 then t.phase = Phase.idle ∧ t.done = true
      else t.phase = Phase.dFill ∧ t.idx = 0#6 ∧ t.bX = 0#29 ∧ t.bY.toNat = h.toNat / 8 - 1)

/-- R213: a DECODE of a file ends well, an ENCODE then starts with the registers and the raster it left
and ends well: the ENCODE has written the payload of the file byte for byte, after the canonical
header. -/
def Obligations.PayloadRoundTrip : Prop :=
  ∀ (file : List Byte) (n m : Nat) (s t u v : State),
    s.source = file.map .byte → runOperation Turn.sparesDecode n s.startDecode = some t →
    t.phase = Phase.idle → t.done = true →
    u.phase = Phase.idle → u.fmtid = t.fmtid → u.width = t.width → u.height = t.height →
    u.raster = t.raster → runOperation Turn.sparesEncode m u.startEncode = some v →
    v.phase = Phase.idle → v.done = true →
    v.outBytes = u.outBytes ++ canonicalHeader 8#32 t.width t.height ++
      (file.drop t.payoff.toNat).take t.payloadSize

/-- R230, R221, R112: what an ENCODE that an error ended leaves: no register or pixel it read has
changed; after IOError the bytes it has added to the OUT stream are a proper prefix of the file it was
writing; after an error of its checks it has added none and made no transfer. -/
def Obligations.FaultedEncodeWroteAPrefix : Prop :=
  ∀ (n : Nat) (s t : State), s.phase = Phase.idle →
    runOperation Turn.sparesEncode n s.startEncode = some t →
    t.phase = Phase.idle → t.errcode ≠ 0#4 →
    (t.fmtid = s.fmtid ∧ t.width = s.width ∧ t.height = s.height ∧ t.raster = s.raster) ∧
    (t.errcode = 1#4 → ∃ payload written : List Byte,
      s.hasPayload payload ∧ t.outBytes = s.outBytes ++ written ∧
      written <+: canonicalHeader s.fmtid s.width s.height ++ payload ∧
      written.length < 128 + s.payloadSize) ∧
    (t.errcode ≠ 1#4 → t.outBytes = s.outBytes ∧ t.trace = s.trace)
end

