-- ==== Sys2Proof/Laws/State.lean ====
section
/-! SUPPORT. One lemma per field per named update of the state, each true by definition, so that no
later proof unfolds an update. -/

namespace Sys2Proof.Machine

@[simp] theorem State.raise_magic (s : State) (e : Error) : (s.raise e).magic = s.magic := rfl
@[simp] theorem State.raise_fmtid (s : State) (e : Error) : (s.raise e).fmtid = s.fmtid := rfl
@[simp] theorem State.raise_width (s : State) (e : Error) : (s.raise e).width = s.width := rfl
@[simp] theorem State.raise_height (s : State) (e : Error) : (s.raise e).height = s.height := rfl
@[simp] theorem State.raise_pixbits (s : State) (e : Error) : (s.raise e).pixbits = s.pixbits := rfl
@[simp] theorem State.raise_payoff (s : State) (e : Error) : (s.raise e).payoff = s.payoff := rfl
@[simp] theorem State.raise_phase (s : State) (e : Error) : (s.raise e).phase = Phase.idle := rfl
@[simp] theorem State.raise_done (s : State) (e : Error) : (s.raise e).done = s.done := rfl
@[simp] theorem State.raise_errcode (s : State) (e : Error) : (s.raise e).errcode = e.code := rfl
@[simp] theorem State.raise_dir (s : State) (e : Error) : (s.raise e).dir = s.dir := rfl
@[simp] theorem State.raise_acc (s : State) (e : Error) : (s.raise e).acc = s.acc := rfl
@[simp] theorem State.raise_hcnt (s : State) (e : Error) : (s.raise e).hcnt = s.hcnt := rfl
@[simp] theorem State.raise_skip (s : State) (e : Error) : (s.raise e).skip = s.skip := rfl
@[simp] theorem State.raise_bX (s : State) (e : Error) : (s.raise e).bX = s.bX := rfl
@[simp] theorem State.raise_bY (s : State) (e : Error) : (s.raise e).bY = s.bY := rfl
@[simp] theorem State.raise_idx (s : State) (e : Error) : (s.raise e).idx = s.idx := rfl
@[simp] theorem State.raise_blk (s : State) (e : Error) : (s.raise e).blk = s.blk := rfl
@[simp] theorem State.raise_rst (s : State) (e : Error) : (s.raise e).rst = s.rst := rfl
@[simp] theorem State.raise_source (s : State) (e : Error) : (s.raise e).source = s.source := rfl
@[simp] theorem State.raise_sink (s : State) (e : Error) : (s.raise e).sink = s.sink := rfl
@[simp] theorem State.raise_raster (s : State) (e : Error) : (s.raise e).raster = s.raster := rfl
@[simp] theorem State.raise_turns (s : State) (e : Error) : (s.raise e).turns = s.turns := rfl
@[simp] theorem State.raise_trace (s : State) (e : Error) : (s.raise e).trace = s.trace := rfl
@[simp] theorem State.raise_draws (s : State) (e : Error) : (s.raise e).draws = s.draws := rfl

@[simp] theorem State.finish_magic (s : State) : s.finish.magic = s.magic := rfl
@[simp] theorem State.finish_fmtid (s : State) : s.finish.fmtid = s.fmtid := rfl
@[simp] theorem State.finish_width (s : State) : s.finish.width = s.width := rfl
@[simp] theorem State.finish_height (s : State) : s.finish.height = s.height := rfl
@[simp] theorem State.finish_pixbits (s : State) : s.finish.pixbits = s.pixbits := rfl
@[simp] theorem State.finish_payoff (s : State) : s.finish.payoff = s.payoff := rfl
@[simp] theorem State.finish_phase (s : State) : s.finish.phase = Phase.idle := rfl
@[simp] theorem State.finish_done (s : State) : s.finish.done = true := rfl
@[simp] theorem State.finish_errcode (s : State) : s.finish.errcode = s.errcode := rfl
@[simp] theorem State.finish_dir (s : State) : s.finish.dir = s.dir := rfl
@[simp] theorem State.finish_acc (s : State) : s.finish.acc = s.acc := rfl
@[simp] theorem State.finish_hcnt (s : State) : s.finish.hcnt = s.hcnt := rfl
@[simp] theorem State.finish_skip (s : State) : s.finish.skip = s.skip := rfl
@[simp] theorem State.finish_bX (s : State) : s.finish.bX = s.bX := rfl
@[simp] theorem State.finish_bY (s : State) : s.finish.bY = s.bY := rfl
@[simp] theorem State.finish_idx (s : State) : s.finish.idx = s.idx := rfl
@[simp] theorem State.finish_blk (s : State) : s.finish.blk = s.blk := rfl
@[simp] theorem State.finish_rst (s : State) : s.finish.rst = s.rst := rfl
@[simp] theorem State.finish_source (s : State) : s.finish.source = s.source := rfl
@[simp] theorem State.finish_sink (s : State) : s.finish.sink = s.sink := rfl
@[simp] theorem State.finish_raster (s : State) : s.finish.raster = s.raster := rfl
@[simp] theorem State.finish_turns (s : State) : s.finish.turns = s.turns := rfl
@[simp] theorem State.finish_trace (s : State) : s.finish.trace = s.trace := rfl
@[simp] theorem State.finish_draws (s : State) : s.finish.draws = s.draws := rfl

@[simp] theorem State.popTurn_magic (s : State) : s.popTurn.magic = s.magic := rfl
@[simp] theorem State.popTurn_fmtid (s : State) : s.popTurn.fmtid = s.fmtid := rfl
@[simp] theorem State.popTurn_width (s : State) : s.popTurn.width = s.width := rfl
@[simp] theorem State.popTurn_height (s : State) : s.popTurn.height = s.height := rfl
@[simp] theorem State.popTurn_pixbits (s : State) : s.popTurn.pixbits = s.pixbits := rfl
@[simp] theorem State.popTurn_payoff (s : State) : s.popTurn.payoff = s.payoff := rfl
@[simp] theorem State.popTurn_phase (s : State) : s.popTurn.phase = s.phase := rfl
@[simp] theorem State.popTurn_done (s : State) : s.popTurn.done = s.done := rfl
@[simp] theorem State.popTurn_errcode (s : State) : s.popTurn.errcode = s.errcode := rfl
@[simp] theorem State.popTurn_dir (s : State) : s.popTurn.dir = s.dir := rfl
@[simp] theorem State.popTurn_acc (s : State) : s.popTurn.acc = s.acc := rfl
@[simp] theorem State.popTurn_hcnt (s : State) : s.popTurn.hcnt = s.hcnt := rfl
@[simp] theorem State.popTurn_skip (s : State) : s.popTurn.skip = s.skip := rfl
@[simp] theorem State.popTurn_bX (s : State) : s.popTurn.bX = s.bX := rfl
@[simp] theorem State.popTurn_bY (s : State) : s.popTurn.bY = s.bY := rfl
@[simp] theorem State.popTurn_idx (s : State) : s.popTurn.idx = s.idx := rfl
@[simp] theorem State.popTurn_blk (s : State) : s.popTurn.blk = s.blk := rfl
@[simp] theorem State.popTurn_rst (s : State) : s.popTurn.rst = s.rst := rfl
@[simp] theorem State.popTurn_source (s : State) : s.popTurn.source = s.source := rfl
@[simp] theorem State.popTurn_sink (s : State) : s.popTurn.sink = s.sink := rfl
@[simp] theorem State.popTurn_raster (s : State) : s.popTurn.raster = s.raster := rfl
@[simp] theorem State.popTurn_turns (s : State) : s.popTurn.turns = s.turns.tail := rfl
@[simp] theorem State.popTurn_trace (s : State) : s.popTurn.trace = s.trace := rfl
@[simp] theorem State.popTurn_draws (s : State) : s.popTurn.draws = s.draws := rfl

@[simp] theorem State.saw_magic (s : State) (e : Event) : (s.saw e).magic = s.magic := rfl
@[simp] theorem State.saw_fmtid (s : State) (e : Event) : (s.saw e).fmtid = s.fmtid := rfl
@[simp] theorem State.saw_width (s : State) (e : Event) : (s.saw e).width = s.width := rfl
@[simp] theorem State.saw_height (s : State) (e : Event) : (s.saw e).height = s.height := rfl
@[simp] theorem State.saw_pixbits (s : State) (e : Event) : (s.saw e).pixbits = s.pixbits := rfl
@[simp] theorem State.saw_payoff (s : State) (e : Event) : (s.saw e).payoff = s.payoff := rfl
@[simp] theorem State.saw_phase (s : State) (e : Event) : (s.saw e).phase = s.phase := rfl
@[simp] theorem State.saw_done (s : State) (e : Event) : (s.saw e).done = s.done := rfl
@[simp] theorem State.saw_errcode (s : State) (e : Event) : (s.saw e).errcode = s.errcode := rfl
@[simp] theorem State.saw_dir (s : State) (e : Event) : (s.saw e).dir = s.dir := rfl
@[simp] theorem State.saw_acc (s : State) (e : Event) : (s.saw e).acc = s.acc := rfl
@[simp] theorem State.saw_hcnt (s : State) (e : Event) : (s.saw e).hcnt = s.hcnt := rfl
@[simp] theorem State.saw_skip (s : State) (e : Event) : (s.saw e).skip = s.skip := rfl
@[simp] theorem State.saw_bX (s : State) (e : Event) : (s.saw e).bX = s.bX := rfl
@[simp] theorem State.saw_bY (s : State) (e : Event) : (s.saw e).bY = s.bY := rfl
@[simp] theorem State.saw_idx (s : State) (e : Event) : (s.saw e).idx = s.idx := rfl
@[simp] theorem State.saw_blk (s : State) (e : Event) : (s.saw e).blk = s.blk := rfl
@[simp] theorem State.saw_rst (s : State) (e : Event) : (s.saw e).rst = s.rst := rfl
@[simp] theorem State.saw_source (s : State) (e : Event) : (s.saw e).source = s.source := rfl
@[simp] theorem State.saw_sink (s : State) (e : Event) : (s.saw e).sink = s.sink := rfl
@[simp] theorem State.saw_raster (s : State) (e : Event) : (s.saw e).raster = s.raster := rfl
@[simp] theorem State.saw_turns (s : State) (e : Event) : (s.saw e).turns = s.turns := rfl
@[simp] theorem State.saw_trace (s : State) (e : Event) : (s.saw e).trace = e :: s.trace := rfl
@[simp] theorem State.saw_draws (s : State) (e : Event) : (s.saw e).draws = s.draws := rfl

@[simp] theorem State.rasWrite_magic (s : State) (x y : Word) (px : Pixel) : (s.rasWrite x y px).magic = s.magic := rfl
@[simp] theorem State.rasWrite_fmtid (s : State) (x y : Word) (px : Pixel) : (s.rasWrite x y px).fmtid = s.fmtid := rfl
@[simp] theorem State.rasWrite_width (s : State) (x y : Word) (px : Pixel) : (s.rasWrite x y px).width = s.width := rfl
@[simp] theorem State.rasWrite_height (s : State) (x y : Word) (px : Pixel) : (s.rasWrite x y px).height = s.height := rfl
@[simp] theorem State.rasWrite_pixbits (s : State) (x y : Word) (px : Pixel) : (s.rasWrite x y px).pixbits = s.pixbits := rfl
@[simp] theorem State.rasWrite_payoff (s : State) (x y : Word) (px : Pixel) : (s.rasWrite x y px).payoff = s.payoff := rfl
@[simp] theorem State.rasWrite_phase (s : State) (x y : Word) (px : Pixel) : (s.rasWrite x y px).phase = s.phase := rfl
@[simp] theorem State.rasWrite_done (s : State) (x y : Word) (px : Pixel) : (s.rasWrite x y px).done = s.done := rfl
@[simp] theorem State.rasWrite_errcode (s : State) (x y : Word) (px : Pixel) : (s.rasWrite x y px).errcode = s.errcode := rfl
@[simp] theorem State.rasWrite_dir (s : State) (x y : Word) (px : Pixel) : (s.rasWrite x y px).dir = s.dir := rfl
@[simp] theorem State.rasWrite_acc (s : State) (x y : Word) (px : Pixel) : (s.rasWrite x y px).acc = s.acc := rfl
@[simp] theorem State.rasWrite_hcnt (s : State) (x y : Word) (px : Pixel) : (s.rasWrite x y px).hcnt = s.hcnt := rfl
@[simp] theorem State.rasWrite_skip (s : State) (x y : Word) (px : Pixel) : (s.rasWrite x y px).skip = s.skip := rfl
@[simp] theorem State.rasWrite_bX (s : State) (x y : Word) (px : Pixel) : (s.rasWrite x y px).bX = s.bX := rfl
@[simp] theorem State.rasWrite_bY (s : State) (x y : Word) (px : Pixel) : (s.rasWrite x y px).bY = s.bY := rfl
@[simp] theorem State.rasWrite_idx (s : State) (x y : Word) (px : Pixel) : (s.rasWrite x y px).idx = s.idx := rfl
@[simp] theorem State.rasWrite_blk (s : State) (x y : Word) (px : Pixel) : (s.rasWrite x y px).blk = s.blk := rfl
@[simp] theorem State.rasWrite_rst (s : State) (x y : Word) (px : Pixel) : (s.rasWrite x y px).rst = s.rst := rfl
@[simp] theorem State.rasWrite_source (s : State) (x y : Word) (px : Pixel) : (s.rasWrite x y px).source = s.source := rfl
@[simp] theorem State.rasWrite_sink (s : State) (x y : Word) (px : Pixel) : (s.rasWrite x y px).sink = s.sink := rfl
@[simp] theorem State.rasWrite_raster (s : State) (x y : Word) (px : Pixel) : (s.rasWrite x y px).raster = s.raster.setPixel x y px := rfl
@[simp] theorem State.rasWrite_turns (s : State) (x y : Word) (px : Pixel) : (s.rasWrite x y px).turns = s.turns := rfl
@[simp] theorem State.rasWrite_trace (s : State) (x y : Word) (px : Pixel) : (s.rasWrite x y px).trace = .rasWrite x y px :: s.trace := rfl
@[simp] theorem State.rasWrite_draws (s : State) (x y : Word) (px : Pixel) : (s.rasWrite x y px).draws = s.draws := rfl

@[simp] theorem State.rasRead_magic (s : State) (x y : Word) : (s.rasRead x y).2.magic = s.magic := rfl
@[simp] theorem State.rasRead_fmtid (s : State) (x y : Word) : (s.rasRead x y).2.fmtid = s.fmtid := rfl
@[simp] theorem State.rasRead_width (s : State) (x y : Word) : (s.rasRead x y).2.width = s.width := rfl
@[simp] theorem State.rasRead_height (s : State) (x y : Word) : (s.rasRead x y).2.height = s.height := rfl
@[simp] theorem State.rasRead_pixbits (s : State) (x y : Word) : (s.rasRead x y).2.pixbits = s.pixbits := rfl
@[simp] theorem State.rasRead_payoff (s : State) (x y : Word) : (s.rasRead x y).2.payoff = s.payoff := rfl
@[simp] theorem State.rasRead_phase (s : State) (x y : Word) : (s.rasRead x y).2.phase = s.phase := rfl
@[simp] theorem State.rasRead_done (s : State) (x y : Word) : (s.rasRead x y).2.done = s.done := rfl
@[simp] theorem State.rasRead_errcode (s : State) (x y : Word) : (s.rasRead x y).2.errcode = s.errcode := rfl
@[simp] theorem State.rasRead_dir (s : State) (x y : Word) : (s.rasRead x y).2.dir = s.dir := rfl
@[simp] theorem State.rasRead_acc (s : State) (x y : Word) : (s.rasRead x y).2.acc = s.acc := rfl
@[simp] theorem State.rasRead_hcnt (s : State) (x y : Word) : (s.rasRead x y).2.hcnt = s.hcnt := rfl
@[simp] theorem State.rasRead_skip (s : State) (x y : Word) : (s.rasRead x y).2.skip = s.skip := rfl
@[simp] theorem State.rasRead_bX (s : State) (x y : Word) : (s.rasRead x y).2.bX = s.bX := rfl
@[simp] theorem State.rasRead_bY (s : State) (x y : Word) : (s.rasRead x y).2.bY = s.bY := rfl
@[simp] theorem State.rasRead_idx (s : State) (x y : Word) : (s.rasRead x y).2.idx = s.idx := rfl
@[simp] theorem State.rasRead_blk (s : State) (x y : Word) : (s.rasRead x y).2.blk = s.blk := rfl
@[simp] theorem State.rasRead_rst (s : State) (x y : Word) : (s.rasRead x y).2.rst = s.rst := rfl
@[simp] theorem State.rasRead_source (s : State) (x y : Word) : (s.rasRead x y).2.source = s.source := rfl
@[simp] theorem State.rasRead_sink (s : State) (x y : Word) : (s.rasRead x y).2.sink = s.sink := rfl
@[simp] theorem State.rasRead_raster (s : State) (x y : Word) : (s.rasRead x y).2.raster = s.raster := rfl
@[simp] theorem State.rasRead_turns (s : State) (x y : Word) : (s.rasRead x y).2.turns = s.turns := rfl
@[simp] theorem State.rasRead_trace (s : State) (x y : Word) : (s.rasRead x y).2.trace = .rasRead x y (s.raster.pixel x y) :: s.trace := rfl
@[simp] theorem State.rasRead_draws (s : State) (x y : Word) : (s.rasRead x y).2.draws = s.draws := rfl

@[simp] theorem State.outSend_magic (s : State) (b : Byte) : (s.outSend b).2.magic = s.magic := rfl
@[simp] theorem State.outSend_fmtid (s : State) (b : Byte) : (s.outSend b).2.fmtid = s.fmtid := rfl
@[simp] theorem State.outSend_width (s : State) (b : Byte) : (s.outSend b).2.width = s.width := rfl
@[simp] theorem State.outSend_height (s : State) (b : Byte) : (s.outSend b).2.height = s.height := rfl
@[simp] theorem State.outSend_pixbits (s : State) (b : Byte) : (s.outSend b).2.pixbits = s.pixbits := rfl
@[simp] theorem State.outSend_payoff (s : State) (b : Byte) : (s.outSend b).2.payoff = s.payoff := rfl
@[simp] theorem State.outSend_phase (s : State) (b : Byte) : (s.outSend b).2.phase = s.phase := rfl
@[simp] theorem State.outSend_done (s : State) (b : Byte) : (s.outSend b).2.done = s.done := rfl
@[simp] theorem State.outSend_errcode (s : State) (b : Byte) : (s.outSend b).2.errcode = s.errcode := rfl
@[simp] theorem State.outSend_dir (s : State) (b : Byte) : (s.outSend b).2.dir = s.dir := rfl
@[simp] theorem State.outSend_acc (s : State) (b : Byte) : (s.outSend b).2.acc = s.acc := rfl
@[simp] theorem State.outSend_hcnt (s : State) (b : Byte) : (s.outSend b).2.hcnt = s.hcnt := rfl
@[simp] theorem State.outSend_skip (s : State) (b : Byte) : (s.outSend b).2.skip = s.skip := rfl
@[simp] theorem State.outSend_bX (s : State) (b : Byte) : (s.outSend b).2.bX = s.bX := rfl
@[simp] theorem State.outSend_bY (s : State) (b : Byte) : (s.outSend b).2.bY = s.bY := rfl
@[simp] theorem State.outSend_idx (s : State) (b : Byte) : (s.outSend b).2.idx = s.idx := rfl
@[simp] theorem State.outSend_blk (s : State) (b : Byte) : (s.outSend b).2.blk = s.blk := rfl
@[simp] theorem State.outSend_rst (s : State) (b : Byte) : (s.outSend b).2.rst = s.rst := rfl
@[simp] theorem State.outSend_source (s : State) (b : Byte) : (s.outSend b).2.source = s.source := rfl
@[simp] theorem State.outSend_sink (s : State) (b : Byte) : (s.outSend b).2.sink = Sink.rest s.sink := rfl
@[simp] theorem State.outSend_raster (s : State) (b : Byte) : (s.outSend b).2.raster = s.raster := rfl
@[simp] theorem State.outSend_turns (s : State) (b : Byte) : (s.outSend b).2.turns = s.turns := rfl
@[simp] theorem State.outSend_trace (s : State) (b : Byte) : (s.outSend b).2.trace = outEvent b (Sink.next s.sink) :: s.trace := rfl
@[simp] theorem State.outSend_draws (s : State) (b : Byte) : (s.outSend b).2.draws = s.draws := rfl

@[simp] theorem State.rasRead_fst (s : State) (x y : Word) : (s.rasRead x y).1 = s.raster.pixel x y := rfl
@[simp] theorem State.outSend_fst (s : State) (b : Byte) : (s.outSend b).1 = Sink.next s.sink := rfl

@[simp] theorem State.inRecv_magic (s : State) : s.inRecv.2.magic = s.magic := by
  unfold State.inRecv; split <;> rfl
@[simp] theorem State.inRecv_fmtid (s : State) : s.inRecv.2.fmtid = s.fmtid := by
  unfold State.inRecv; split <;> rfl
@[simp] theorem State.inRecv_width (s : State) : s.inRecv.2.width = s.width := by
  unfold State.inRecv; split <;> rfl
@[simp] theorem State.inRecv_height (s : State) : s.inRecv.2.height = s.height := by
  unfold State.inRecv; split <;> rfl
@[simp] theorem State.inRecv_pixbits (s : State) : s.inRecv.2.pixbits = s.pixbits := by
  unfold State.inRecv; split <;> rfl
@[simp] theorem State.inRecv_payoff (s : State) : s.inRecv.2.payoff = s.payoff := by
  unfold State.inRecv; split <;> rfl
@[simp] theorem State.inRecv_phase (s : State) : s.inRecv.2.phase = s.phase := by
  unfold State.inRecv; split <;> rfl
@[simp] theorem State.inRecv_done (s : State) : s.inRecv.2.done = s.done := by
  unfold State.inRecv; split <;> rfl
@[simp] theorem State.inRecv_errcode (s : State) : s.inRecv.2.errcode = s.errcode := by
  unfold State.inRecv; split <;> rfl
@[simp] theorem State.inRecv_dir (s : State) : s.inRecv.2.dir = s.dir := by
  unfold State.inRecv; split <;> rfl
@[simp] theorem State.inRecv_acc (s : State) : s.inRecv.2.acc = s.acc := by
  unfold State.inRecv; split <;> rfl
@[simp] theorem State.inRecv_hcnt (s : State) : s.inRecv.2.hcnt = s.hcnt := by
  unfold State.inRecv; split <;> rfl
@[simp] theorem State.inRecv_skip (s : State) : s.inRecv.2.skip = s.skip := by
  unfold State.inRecv; split <;> rfl
@[simp] theorem State.inRecv_bX (s : State) : s.inRecv.2.bX = s.bX := by
  unfold State.inRecv; split <;> rfl
@[simp] theorem State.inRecv_bY (s : State) : s.inRecv.2.bY = s.bY := by
  unfold State.inRecv; split <;> rfl
@[simp] theorem State.inRecv_idx (s : State) : s.inRecv.2.idx = s.idx := by
  unfold State.inRecv; split <;> rfl
@[simp] theorem State.inRecv_blk (s : State) : s.inRecv.2.blk = s.blk := by
  unfold State.inRecv; split <;> rfl
@[simp] theorem State.inRecv_rst (s : State) : s.inRecv.2.rst = s.rst := by
  unfold State.inRecv; split <;> rfl
@[simp] theorem State.inRecv_sink (s : State) : s.inRecv.2.sink = s.sink := by
  unfold State.inRecv; split <;> rfl
@[simp] theorem State.inRecv_raster (s : State) : s.inRecv.2.raster = s.raster := by
  unfold State.inRecv; split <;> rfl
@[simp] theorem State.inRecv_turns (s : State) : s.inRecv.2.turns = s.turns := by
  unfold State.inRecv; split <;> rfl
@[simp] theorem State.inRecv_draws (s : State) : s.inRecv.2.draws = s.draws := by
  unfold State.inRecv; split <;> rfl

end Sys2Proof.Machine
end

