-- ==== Sys2Proof/Laws/Memory.lean ====
section
/-! SUPPORT. The raster's bytes: a read after a write, and the canonical form every write keeps. -/

namespace Sys2Proof.Machine

theorem Memory.read_filter_ne (m : Memory) (a b : Nat) :
    Memory.read (m.filter (fun c => c.1 != a)) b = if b = a then unlistedByte else Memory.read m b := by
  induction m with
  | nil => simp [Memory.read]
  | cons c m ih =>
    by_cases hc : c.1 = a
    · simp only [List.filter_cons, hc, bne_self_eq_false, Bool.false_eq_true, if_false, ih,
        Memory.read]
      split <;> simp_all [eq_comm]
    · simp only [List.filter_cons, bne_iff_ne, ne_eq, hc, not_false_eq_true, if_true, Memory.read, ih]
      split <;> simp_all

theorem Memory.read_insert (m : Memory) (a b : Nat) (v : Byte) (h : ∀ c ∈ m, c.1 ≠ a) :
    Memory.read (Memory.insert m a v) b = if b = a then v else Memory.read m b := by
  induction m with
  | nil => simp [Memory.insert, Memory.read, eq_comm]
  | cons c m ih =>
    have hc : c.1 ≠ a := h c (by simp)
    have ih := ih (fun d hd => h d (by simp [hd]))
    unfold Memory.insert
    split
    · simp [Memory.read, eq_comm]
    · simp only [Memory.read, ih]
      split <;> simp_all

/-- One byte is written, every other byte reads as before; for every list, canonical or not. -/
theorem Memory.read_write (m : Memory) (a b : Nat) (v : Byte) :
    (m.write a v).read b = if b = a then v else m.read b := by
  unfold Memory.write
  by_cases hv : v = unlistedByte
  · simp [hv, Memory.read_filter_ne]
  · simp only [hv, if_false]
    rw [Memory.read_insert _ _ _ _ (by simp), Memory.read_filter_ne]
    split <;> rfl

theorem Memory.mem_insert (m : Memory) (a : Nat) (v : Byte) (c : Host.Cell) :
    c ∈ Memory.insert m a v ↔ c = (a, v) ∨ c ∈ m := by
  induction m with
  | nil => simp [Memory.insert]
  | cons d m ih =>
    unfold Memory.insert
    split
    · simp
    · simp only [List.mem_cons, ih]
      tauto

theorem Memory.insert_pairwise (m : Memory) (a : Nat) (v : Byte) (h : ∀ c ∈ m, c.1 ≠ a)
    (hm : m.Pairwise (fun p q => p.1 < q.1)) :
    (Memory.insert m a v).Pairwise (fun p q => p.1 < q.1) := by
  induction m with
  | nil => simp [Memory.insert]
  | cons d m ih =>
    have hd := List.pairwise_cons.mp hm
    unfold Memory.insert
    split
    · rename_i hlt
      refine List.pairwise_cons.mpr ⟨fun c hc => ?_, hm⟩
      rcases List.mem_cons.mp hc with rfl | hc
      · exact hlt
      · exact lt_trans hlt (hd.1 c hc)
    · rename_i hlt
      refine List.pairwise_cons.mpr ⟨fun c hc => ?_, ih (fun c hc => h c (by simp [hc])) hd.2⟩
      rcases (Memory.mem_insert m a v c).mp hc with rfl | hc
      · have := h d (by simp)
        simp only at *
        omega
      · exact hd.1 c hc

/-- A write of one byte keeps the canonical form. -/
theorem Memory.write_wf (m : Memory) (a : Nat) (v : Byte) (ha : a < rasterSize) (hm : m.wf) :
    (m.write a v).wf := by
  have hf : Memory.wf (m.filter (fun c => c.1 != a)) :=
    ⟨hm.1.filter _, fun c hc => hm.2 c (List.mem_filter.mp hc).1⟩
  unfold Memory.write
  by_cases hv : v = unlistedByte
  · simp only [hv, if_true]
    exact hf
  · simp only [hv, if_false]
    refine ⟨Memory.insert_pairwise _ _ _ (by simp) hf.1, fun c hc => ?_⟩
    rcases (Memory.mem_insert _ _ _ _).mp hc with rfl | hc
    · exact ⟨hv, ha⟩
    · exact hf.2 c hc

theorem rasAddr_lt (x y : Word) (c : Nat) (hc : c < 4) : rasAddr x y c < rasterSize := by
  have := x.isLt
  have := y.isLt
  unfold rasAddr rasterSize
  omega

/-- Writing a pixel keeps the canonical form. -/
theorem Memory.setPixel_wf (m : Memory) (x y : Word) (px : Pixel) (hm : m.wf) :
    (m.setPixel x y px).wf := by
  unfold Memory.setPixel
  exact Memory.write_wf _ _ _ (rasAddr_lt _ _ _ (by omega)) <|
    Memory.write_wf _ _ _ (rasAddr_lt _ _ _ (by omega)) <|
    Memory.write_wf _ _ _ (rasAddr_lt _ _ _ (by omega)) <|
    Memory.write_wf _ _ _ (rasAddr_lt _ _ _ (by omega)) hm

/-- What every byte of the raster reads as after a pixel is written. -/
theorem Memory.read_setPixel (m : Memory) (x y : Word) (px : Pixel) (b : Nat) :
    (m.setPixel x y px).read b =
      if b = rasAddr x y 3 then px.a else if b = rasAddr x y 2 then px.b
      else if b = rasAddr x y 1 then px.g else if b = rasAddr x y 0 then px.r else m.read b := by
  simp only [Memory.setPixel, Memory.read_write]

/-- Two channels have one address only if they are the same channel of the same pixel. -/
theorem rasAddr_inj (x y x' y' : Word) (c c' : Nat) (hc : c < 4) (hc' : c' < 4) :
    rasAddr x y c = rasAddr x' y' c' ↔ x = x' ∧ y = y' ∧ c = c' := by
  have := x.isLt
  have := y.isLt
  have := x'.isLt
  have := y'.isLt
  unfold rasAddr
  simp only [← BitVec.toNat_inj]
  omega

/-- The raster after reset is in canonical form. -/
theorem reset_raster_wf : State.reset.raster.wf := by decide

end Sys2Proof.Machine
end

