-- ==== Sys2Proof/Laws/Ops.lean ====
section
/-! SUPPORT. For each shared operation, once, everything it can do. -/

namespace Sys2Proof.Machine

theorem div8_toNat (v : Word) : (div8 v).toNat = v.toNat / 8 := by
  have := v.isLt
  simp only [div8, BitVec.extractLsb'_toNat, Nat.shiftRight_eq_div_pow]
  omega

theorem multipleOf8_iff (v : Word) : multipleOf8 v = true ↔ v.toNat % 8 = 0 := by
  simp only [multipleOf8, beq_iff_eq, ← BitVec.toNat_inj, BitVec.extractLsb'_toNat,
    Nat.shiftRight_zero]
  simp

theorem multipleOf8_eq_false (v : Word) : multipleOf8 v = false ↔ v.toNat % 8 ≠ 0 := by
  rw [← Bool.not_eq_true, multipleOf8_iff]

theorem div8_eq_zero (v : Word) : div8 v = 0#29 ↔ v.toNat / 8 = 0 := by
  rw [← BitVec.toNat_inj, div8_toNat]
  simp

theorem resolve_some (id : Word) (v : Config.Variant) : resolve id = some v ↔ id = 8#32 := by
  cases v
  unfold resolve Config.formatTable
  rw [List.find?_cons]
  by_cases h : id = 8#32
  · subst h
    exact ⟨fun _ => rfl, fun _ => rfl⟩
  · have hb : (8#32 == id) = false := beq_eq_false_iff_ne.mpr (Ne.symm h)
    rw [hb]
    exact ⟨fun hc => (by cases hc), fun hc => absurd hc h⟩

theorem resolve_none (id : Word) : resolve id = none ↔ id ≠ 8#32 := by
  rw [← not_iff_not, not_not, ← resolve_some id .a8]
  cases resolve id with
  | none => simp
  | some v => cases v; simp

theorem declaredBits_a8 : declaredBits 8#32 = 8#32 := by
  unfold declaredBits
  rw [(resolve_some 8#32 .a8).mpr rfl]
  rfl

/-- An IN transfer: the next byte, or `Fail`, which also the end of the stream gives. -/
theorem State.inRecv_cases (s : State) :
    (∃ b rest, s.source = .byte b :: rest ∧
      s.inRecv = (.byte b, { s with source := rest, trace := .inByte b :: s.trace })) ∨
    (∃ rest, (s.source = .fail :: rest ∨ s.source = [] ∧ rest = []) ∧
      s.inRecv = (.fail, { s with source := rest, trace := .inFail :: s.trace })) := by
  unfold State.inRecv
  split
  · rename_i b rest h
    exact .inl ⟨b, rest, h, rfl⟩
  · rename_i rest h
    exact .inr ⟨rest, .inl h, rfl⟩
  · rename_i h
    refine .inr ⟨[], .inr ⟨h, rfl⟩, ?_⟩
    rw [← h]

/-- An OUT transfer: accepted or refused, and the sink's answer is used up. -/
theorem State.outSend_cases (s : State) (b : Byte) :
    (Sink.next s.sink = .ok ∧
      s.outSend b = (.ok, { s with sink := Sink.rest s.sink, trace := .outOk b :: s.trace })) ∨
    (Sink.next s.sink = .fail ∧
      s.outSend b = (.fail, { s with sink := Sink.rest s.sink, trace := .outFail b :: s.trace })) := by
  unfold State.outSend
  cases h : Sink.next s.sink
  · exact .inl ⟨rfl, rfl⟩
  · exact .inr ⟨rfl, rfl⟩

/-- `start_blocks` ends the operation, or starts at the bottom left block. -/
theorem State.startBlocks_cases (s : State) (p : BitVec 4) :
    ((s.width.toNat / 8 = 0 ∨ s.height.toNat / 8 = 0) ∧ s.startBlocks p = s.finish) ∨
    (0 < s.width.toNat / 8 ∧ 0 < s.height.toNat / 8 ∧
      s.startBlocks p =
        { s with bX := 0#29, bY := div8 s.height - 1#29, idx := 0#6, phase := p } ∧
      (div8 s.height - 1#29).toNat = s.height.toNat / 8 - 1) := by
  unfold State.startBlocks
  simp only [div8_eq_zero]
  split
  · rename_i h
    exact .inl ⟨h, rfl⟩
  · rename_i h
    refine .inr ⟨by omega, by omega, rfl, ?_⟩
    have h8 := div8_toNat s.height
    have := (div8 s.height).isLt
    rw [BitVec.toNat_sub_of_le]
    · simp [h8]
    · rw [BitVec.le_def, h8]
      simp only [BitVec.toNat_ofNat]
      omega

/-- `next_block` goes right, goes to the start of the block-row above, or ends the operation. -/
theorem State.nextBlock_cases (s : State) (p : BitVec 4) :
    (s.bX.toNat + 1 < s.width.toNat / 8 ∧ (s.bX + 1#29).toNat = s.bX.toNat + 1 ∧
      s.nextBlock p = { s with idx := 0#6, bX := s.bX + 1#29, phase := p }) ∨
    (s.width.toNat / 8 ≤ s.bX.toNat + 1 ∧ 0 < s.bY.toNat ∧
      (s.bY - 1#29).toNat = s.bY.toNat - 1 ∧
      s.nextBlock p = { s with idx := 0#6, bX := 0#29, bY := s.bY - 1#29, phase := p }) ∨
    (s.width.toNat / 8 ≤ s.bX.toNat + 1 ∧ s.bY.toNat = 0 ∧
      s.nextBlock p = { s with idx := 0#6, phase := Phase.idle, done := true }) := by
  unfold State.nextBlock
  simp only [div8_toNat]
  split
  · rename_i h
    refine .inl ⟨h, ?_, rfl⟩
    have := s.width.isLt
    rw [BitVec.toNat_add]
    simp only [BitVec.toNat_ofNat]
    omega
  · rename_i h
    split
    · rename_i h2
      refine .inr (.inl ⟨by omega, h2, ?_, rfl⟩)
      rw [BitVec.toNat_sub_of_le]
      · simp
      · rw [BitVec.le_def]
        simp only [BitVec.toNat_ofNat]
        omega
    · exact .inr (.inr ⟨by omega, by omega, rfl⟩)

/-- `padding_complete` raises a dimension error or starts the blocks. -/
theorem State.paddingComplete_cases (s : State) :
    (s.width.toNat % 8 ≠ 0 ∧ s.paddingComplete = s.raise .widthNotMultipleOf8) ∨
    (s.width.toNat % 8 = 0 ∧ s.height.toNat % 8 ≠ 0 ∧
      s.paddingComplete = s.raise .heightNotMultipleOf8) ∨
    (s.width.toNat % 8 = 0 ∧ s.height.toNat % 8 = 0 ∧
      s.paddingComplete = s.startBlocks Phase.dFill) := by
  unfold State.paddingComplete
  simp only [Bool.not_eq_true', multipleOf8_eq_false]
  by_cases hw : s.width.toNat % 8 = 0 <;> by_cases hh : s.height.toNat % 8 = 0 <;> simp [hw, hh]

/-- A traversal index below 63 counts up without wrapping. -/
theorem idx_succ (i : BitVec 6) (h : i.toNat < 63) : (i + 1#6).toNat = i.toNat + 1 := by
  rw [BitVec.toNat_add]
  simp only [BitVec.toNat_ofNat]
  omega

/-- A header byte count below 127 counts up without wrapping. -/
theorem hcnt_succ (k : BitVec 7) (h : k.toNat < 127) : (k + 1#7).toNat = k.toNat + 1 := by
  rw [BitVec.toNat_add]
  simp only [BitVec.toNat_ofNat]
  omega

theorem blkGet_blkSet (blk : Vector Byte 64) (i j : BitVec 6) (b : Byte) :
    blkGet (blkSet blk i b) j = if j = i then b else blkGet blk j := by
  unfold blkGet blkSet
  rw [Vector.getElem_set]
  simp only [eq_comm (a := j), ← BitVec.toNat_inj]

end Sys2Proof.Machine
end

