-- ==== Sys2Proof/Laws/PerInstr.lean ====
section
/-! SUPPORT. Facts about each operation as code, one lemma per constructor. -/

namespace Sys2Proof.Laws

/-- The operation is well formed, so is its code word, and the decoder reads it back from the code
word and from the code word's bytes. -/
def RoundTrip.Statement (i : Instr) : Prop :=
  i.wf = true ∧ (encode i).wf = true ∧ decodeCode (encode i) = .ok i ∧
    decodeBytes (encode i).space (encode i).bytes = .ok i

theorem RoundTrip.nop : RoundTrip.Statement .nop := ⟨rfl, rfl, rfl, rfl⟩

theorem RoundTrip.decode : RoundTrip.Statement .decode := ⟨rfl, rfl, rfl, rfl⟩

theorem RoundTrip.encode : RoundTrip.Statement .encode := ⟨rfl, rfl, rfl, rfl⟩

theorem RoundTrip.fmtA8 : RoundTrip.Statement .fmtA8 := ⟨rfl, rfl, rfl, rfl⟩

theorem RoundTrip.stepDHdr : RoundTrip.Statement .stepDHdr := ⟨rfl, rfl, rfl, rfl⟩

theorem RoundTrip.stepDPad : RoundTrip.Statement .stepDPad := ⟨rfl, rfl, rfl, rfl⟩

theorem RoundTrip.stepDFill : RoundTrip.Statement .stepDFill := ⟨rfl, rfl, rfl, rfl⟩

theorem RoundTrip.stepDDrain : RoundTrip.Statement .stepDDrain := ⟨rfl, rfl, rfl, rfl⟩

theorem RoundTrip.stepEHdr : RoundTrip.Statement .stepEHdr := ⟨rfl, rfl, rfl, rfl⟩

theorem RoundTrip.stepEGather : RoundTrip.Statement .stepEGather := ⟨rfl, rfl, rfl, rfl⟩

theorem RoundTrip.stepEEmit : RoundTrip.Statement .stepEEmit := ⟨rfl, rfl, rfl, rfl⟩

end Sys2Proof.Laws
end

