-- ==== Sys2Proof/Laws/Step.lean ====
section
/-! SUPPORT. What one step can do, said once. -/

namespace Sys2Proof.Machine

/-- STEP.D_HDR, STEP.D_PAD and STEP.D_FILL: a byte was received, or `Fail`. -/
theorem exec_in_cases (s : State) :
    (∃ b rest, s.source = .byte b :: rest ∧
      let s1 := { s with source := rest, trace := .inByte b :: s.trace }
      exec .stepDHdr s = .next (headerByteIn b s1) ∧
      exec .stepDPad s = .next (paddingByteIn s1) ∧
      exec .stepDFill s = .next
        (State.nextInBlock { s1 with blk := blkSet s.blk s.idx b } Phase.dDrain)) ∨
    (∃ rest, (s.source = .fail :: rest ∨ s.source = [] ∧ rest = []) ∧
      let s1 := State.raise { s with source := rest, trace := .inFail :: s.trace } .ioError
      exec .stepDHdr s = .next s1 ∧ exec .stepDPad s = .next s1 ∧ exec .stepDFill s = .next s1) := by
  rcases s.inRecv_cases with ⟨b, rest, hs, h⟩ | ⟨rest, hs, h⟩
  · refine .inl ⟨b, rest, hs, ?_⟩
    simp only [exec, execStepDHdr, execStepDPad, execStepDFill, h, and_self]
  · refine .inr ⟨rest, hs, ?_⟩
    simp only [exec, execStepDHdr, execStepDPad, execStepDFill, h, and_self]

/-- STEP.E_HDR: its byte was accepted, or `Fail`. -/
theorem exec_eHdr_cases (s : State) :
    let b := headerByte s.fmtid s.width s.height s.hcnt.toNat
    (Sink.next s.sink = .ok ∧ exec .stepEHdr s = .next
      (headerByteOut { s with sink := Sink.rest s.sink, trace := .outOk b :: s.trace })) ∨
    (Sink.next s.sink = .fail ∧ exec .stepEHdr s = .next
      (State.raise { s with sink := Sink.rest s.sink, trace := .outFail b :: s.trace } .ioError)) := by
  intro b
  rcases s.outSend_cases b with ⟨hk, h⟩ | ⟨hk, h⟩
  · refine .inl ⟨hk, ?_⟩
    simp only [exec, execStepEHdr]
    rw [h]
  · refine .inr ⟨hk, ?_⟩
    simp only [exec, execStepEHdr]
    rw [h]

/-- STEP.E_EMIT: its byte was accepted, or `Fail`. -/
theorem exec_eEmit_cases (s : State) :
    let b := blkGet s.blk s.idx
    (Sink.next s.sink = .ok ∧ exec .stepEEmit s = .next
      (State.nextInDrain { s with sink := Sink.rest s.sink, trace := .outOk b :: s.trace }
        Phase.eGather)) ∨
    (Sink.next s.sink = .fail ∧ exec .stepEEmit s = .next
      (State.raise { s with sink := Sink.rest s.sink, trace := .outFail b :: s.trace } .ioError)) := by
  intro b
  rcases s.outSend_cases b with ⟨hk, h⟩ | ⟨hk, h⟩
  · refine .inl ⟨hk, ?_⟩
    simp only [exec, execStepEEmit]
    rw [h]
  · refine .inr ⟨hk, ?_⟩
    simp only [exec, execStepEEmit]
    rw [h]

/-- No operation stops the machine (R228: an error is a next state). -/
theorem exec_is_next (i : Instr) (s : State) : ∃ t, exec i s = .next t := by
  cases i with
  | nop | fmtA8 | stepDDrain | stepEGather => exact ⟨_, rfl⟩
  | decode =>
    simp only [exec, execDecode]
    split <;> exact ⟨_, rfl⟩
  | encode =>
    simp only [exec, execEncode]
    split <;> exact ⟨_, rfl⟩
  | stepDHdr =>
    rcases exec_in_cases s with ⟨_, _, _, h, _⟩ | ⟨_, _, h, _⟩
    all_goals exact ⟨_, h⟩
  | stepDPad =>
    rcases exec_in_cases s with ⟨_, _, _, _, h, _⟩ | ⟨_, _, _, h, _⟩
    all_goals exact ⟨_, h⟩
  | stepDFill =>
    rcases exec_in_cases s with ⟨_, _, _, _, _, h⟩ | ⟨_, _, _, _, h⟩
    all_goals exact ⟨_, h⟩
  | stepEHdr =>
    rcases exec_eHdr_cases s with ⟨_, h⟩ | ⟨_, h⟩
    all_goals exact ⟨_, h⟩
  | stepEEmit =>
    rcases exec_eEmit_cases s with ⟨_, h⟩ | ⟨_, h⟩
    all_goals exact ⟨_, h⟩

/-- Where the code word of the next step comes from. -/
theorem State.pending_some (s : State) (c : CodeWord) (h : s.pending = some c) :
    s.rst = false ∧
    ((∃ rest, s.turns = .sequencer :: rest ∧ s.phase ≠ Phase.idle ∧ c = .phase s.phase) ∨
     (∃ v rest, s.turns = .host (.csrWrite 0x20#32 .word v) :: rest ∧ c = .cmd v) ∨
     (∃ v rest, s.turns = .host (.csrWrite 0x04#32 .word v) :: rest ∧ c = .fmt v)) := by
  unfold State.pending at h
  split at h
  · cases h
  · rename_i hr
    refine ⟨by simpa using hr, ?_⟩
    split at h
    · rename_i rest ht
      split at h
      · cases h
      · rename_i hp
        exact .inl ⟨rest, ht, hp, by simpa using h.symm⟩
    · rename_i off size v rest ht
      unfold csrCode at h
      split at h
      · rename_i hc
        obtain ⟨rfl, rfl⟩ := hc
        exact .inr (.inl ⟨v, rest, ht, by simpa using h.symm⟩)
      · split at h
        · rename_i hc
          obtain ⟨rfl, rfl⟩ := hc
          exact .inr (.inr ⟨v, rest, ht, by simpa using h.symm⟩)
        · cases h
    · cases h

/-- Everything a step that gives a next state can do: a move that runs no operation, an operation, a
reserved command value, or an identifier that does not resolve. -/
theorem step_cases (s t : State) (h : step s = .next t) :
    (s.pending = none ∧ t = quietStep s) ∨
    (∃ c i, s.pending = some c ∧ decodeCode c = .ok i ∧ exec i s.popTurn = .next t) ∨
    (∃ v, s.pending = some (.cmd v) ∧ t = s.popTurn) ∨
    (∃ v, s.pending = some (.fmt v) ∧ t = s.popTurn.hostFormat v) := by
  unfold step at h
  split at h
  · rename_i hp
    exact .inl ⟨hp, by injection h with h; exact h.symm⟩
  · rename_i c hp
    split at h
    · rename_i i hd
      exact .inr (.inl ⟨c, i, hp, hd, h⟩)
    · rename_i e hd
      unfold undecoded at h
      cases c with
      | cmd v =>
        refine .inr (.inr (.inl ⟨v, hp, ?_⟩))
        simp only [decodeCode] at hd
        split at hd
        · cases hd
        · split at hd
          · cases hd
          · split at hd
            · cases hd
            · cases hd
              injection h with h
              exact h.symm
      | fmt v =>
        refine .inr (.inr (.inr ⟨v, hp, ?_⟩))
        simp only [decodeCode] at hd
        split at hd
        · cases hd
        · cases hd
          injection h with h
          exact h.symm
      | phase c =>
        have hn := (State.pending_some s _ hp).2
        rcases hn with ⟨rest, -, hne, hc⟩ | ⟨v, rest, -, hc⟩ | ⟨v, rest, -, hc⟩
        · injection hc with hc
          subst hc
          simp only [decodeCode] at hd
          repeat' split at hd
          all_goals first | (cases hd; done) | (exfalso; exact hne (by assumption)) | skip
          injection hd with hd
          subst hd
          cases h
        · cases hc
        · cases hc

end Sys2Proof.Machine
end

