-- ==== Sys2Proof/Laws/Run.lean ====
section
/-! SUPPORT. Running several steps. -/

namespace Sys2Proof.Machine

/-- A run whose first step gives a next state goes on from there; for any machine. -/
theorem run_next_of (k : Nat) (M : Host.Core) (s t : M.State) (h : M.step s = .next t) :
    M.run (k + 1) s = M.run k t := by
  rw [Host.Core.run]
  rw [h]

/-- A run whose first step gives a next state goes on from there. -/
theorem run_next (k : Nat) (s t : State) (h : step s = .next t) :
    Host.Core.run Sys2Proof.core (k + 1) s = Host.Core.run Sys2Proof.core k t :=
  run_next_of k Sys2Proof.core s t h

/-- A run of no steps. -/
theorem run_zero (s : State) : Host.Core.run Sys2Proof.core 0 s = .next s := rfl

/-- One step of `runOperation`, while the operation runs and the moves are of the kind asked for. -/
theorem runOperation_succ (spares : Turn → Bool) (n : Nat) (s t : State)
    (hp : s.phase ≠ Phase.idle) (hc : s.turns.all spares = true) (h : step s = .next t) :
    runOperation spares (n + 1) s = runOperation spares n t := by
  rw [runOperation, if_neg hp, if_pos hc, h]

/-- What a run of an operation that gives a state can have done first. -/
theorem runOperation_cases (spares : Turn → Bool) (n : Nat) (s t : State)
    (h : runOperation spares n s = some t) :
    t = s ∨ ∃ k s', n = k + 1 ∧ s.phase ≠ Phase.idle ∧ s.turns.all spares = true ∧
      step s = .next s' ∧ runOperation spares k s' = some t := by
  cases n with
  | zero => exact .inl (by simpa [runOperation] using h.symm)
  | succ k =>
    rw [runOperation] at h
    split at h
    · exact .inl (by simpa using h.symm)
    · rename_i hp
      split at h
      · rename_i hc
        split at h
        · rename_i s' hs
          exact .inr ⟨k, s', rfl, hp, hc, hs, h⟩
        · cases h
      · cases h

/-- A fact that holds of the first state of a run of an operation, and that every step of it keeps,
holds of its last state. -/
theorem runOperation_induct (spares : Turn → Bool) (P : State → Prop)
    (keep : ∀ s s', P s → s.phase ≠ Phase.idle → s.turns.all spares = true → step s = .next s' → P s')
    (n : Nat) (s t : State) (h : runOperation spares n s = some t) (hs : P s) : P t := by
  induction n generalizing s with
  | zero =>
    rcases runOperation_cases spares 0 s t h with rfl | ⟨k, s', hn, _⟩
    · exact hs
    · cases hn
  | succ n ih =>
    rcases runOperation_cases spares (n + 1) s t h with rfl | ⟨k, s', hn, hp, hc, hst, hr⟩
    · exact hs
    · cases hn
      exact ih s' hr (keep s s' hs hp hc hst)

end Sys2Proof.Machine
end

