-- ==== Sys2Proof/Tests/Slice0.lean ====
section
/-! SUPPORT. Tests of the decoder and of single steps, with expected values from
spec/95_test_vectors.md and the rules named, and one witness for every statement that has hypotheses. -/

namespace Sys2Proof.Tests

open Sys2Proof.Machine

/-! ### Well-formedness refuses -/

theorem test_wf_refuses_command_3 : (CodeWord.cmd 3#32).wf = false := by decide
theorem test_wf_refuses_command_with_a_high_bit : (CodeWord.cmd 0x80000001#32).wf = false := by decide
theorem test_wf_refuses_format_7 : (CodeWord.fmt 7#32).wf = false := by decide
theorem test_wf_refuses_format_0 : (CodeWord.fmt 0#32).wf = false := by decide
theorem test_wf_refuses_phase_0 : (CodeWord.phase 0#4).wf = false := by decide
theorem test_wf_refuses_phase_8 : (CodeWord.phase 8#4).wf = false := by decide
theorem test_wf_refuses_unaligned_access : csrAccessWf 0x22#32 .word = false := by decide
theorem test_wf_refuses_narrow_access : csrAccessWf 0x20#32 .byte = false := by decide
theorem test_wf_refuses_half_access : (HostAct.csrRead 0x24#32 .half).wf = false := by decide
theorem test_wf_refuses_access_past_the_end : (HostAct.csrWrite 0x28#32 .word 0#32).wf = false := by
  decide
theorem test_wf_accepts_status : (HostAct.csrRead 0x24#32 .word).wf = true := by decide

/-! ### Decoding: words written out from R80, R84 and R31 -/

theorem test_decode_nop : decodeTableWord 32 0b00000000000000000000000000000000 = some .nop := by
  decide
theorem test_decode_decode : decodeTableWord 32 0b00000000000000000000000000000001 = some .decode := by
  decide
theorem test_decode_encode : decodeTableWord 32 0b00000000000000000000000000000010 = some .encode := by
  decide
theorem test_decode_fmtA8 : decodeTableWord 32 0b00000000000000000000000000001000 = some .fmtA8 := by
  decide
theorem test_decode_stepDHdr : decodeTableWord 8 0b0001 = some .stepDHdr := by decide
theorem test_decode_stepDPad : decodeTableWord 8 0b0010 = some .stepDPad := by decide
theorem test_decode_stepDFill : decodeTableWord 8 0b0011 = some .stepDFill := by decide
theorem test_decode_stepDDrain : decodeTableWord 8 0b0100 = some .stepDDrain := by decide
theorem test_decode_stepEHdr : decodeTableWord 8 0b0101 = some .stepEHdr := by decide
theorem test_decode_stepEGather : decodeTableWord 8 0b0110 = some .stepEGather := by decide
theorem test_decode_stepEEmit : decodeTableWord 8 0b0111 = some .stepEEmit := by decide

/-- R82: least significant byte first. -/
theorem test_decode_format_bytes :
    decodeBytes .format [0x08#8, 0x00#8, 0x00#8, 0x00#8] = .ok .fmtA8 := by decide
theorem test_decode_refuses_big_endian_format :
    decodeBytes .format [0x00#8, 0x00#8, 0x00#8, 0x08#8] = .error (.unknownFormat 0x08000000#32) := by
  decide
theorem test_decode_refuses_command_3 : decodeTableWord 32 3 = none := by decide
theorem test_decode_refuses_idle_phase : decodeTableWord 8 0 = none := by decide
theorem test_decode_refuses_phase_8 :
    decodeBytes .phase [0x08#8] = .error (.reservedPhase 8#4) := by decide
theorem test_decode_refuses_short_word : decodeBytes .command [0x01#8] = .error .wrongLength := by decide

/-! ### Small states -/

/-- A state in a phase, otherwise as after reset. -/
def inPhase (p : BitVec 4) : State := { State.reset with phase := p }

/-- In D_HDR with `k` header bytes read, the three last of them in ACC, and one byte to come. -/
def hdrState (k : BitVec 7) (acc : Word) (b : Byte) : State :=
  { inPhase Phase.dHdr with hcnt := k, acc := acc, source := [.byte b] }

/-- Idle, with an 8 × 8 A8 image described in the registers. -/
def idleA8 : State := { State.reset with fmtid := 8#32, width := 8#32, height := 8#32 }

/-- In the only block of an 8 × 8 image. -/
def blockState (p : BitVec 4) (i : BitVec 6) : State := { idleA8 with phase := p, idx := i }

/-- A state with these moves to come. -/
def withTurns (s : State) (ts : List Turn) : State := { s with turns := ts }

/-- One view of the state a step answers. -/
def after {α : Type} (o : Host.Outcome State Fault Refusal) (f : State → α) : Option α :=
  match o with
  | .next t => some (f t)
  | _ => none

/-- The 28 header bytes `hdr(w, h, off)` of 95_test_vectors.md, for sizes and offsets below 256. -/
def hdr (w h off : Byte) : List Byte :=
  [0x00#8, 0x63#8, 0x74#8, 0x65#8, 8#8, 0#8, 0#8, 0#8, w, 0#8, 0#8, 0#8, h, 0#8, 0#8, 0#8,
   8#8, 0#8, 0#8, 0#8, 0#8, 0#8, 0#8, 0#8, off, 0#8, 0#8, 0#8]

/-! ### One step of each operation -/

theorem test_nop_busy : exec .nop (inPhase Phase.eGather) = .next (inPhase Phase.eGather) := rfl
theorem test_nop_keeps_error :
    after (exec .nop { State.reset with errcode := 2#4 }) State.status = some 0x00000024#32 := by decide

/-- STATUS of a DECODE in D_HDR. -/
theorem test_decode_status :
    after (exec .decode { idleA8 with errcode := 6#4, dir := true }) State.status
      = some 0x00000101#32 := by decide
theorem test_decode_clears_width :
    after (exec .decode idleA8) (fun t => (t.width, t.fmtid, t.hcnt)) = some (0#32, 0#32, 0#7) := by
  decide

/-- STATUS of an ENCODE in E_HDR. -/
theorem test_encode_status : after (exec .encode idleA8) State.status = some 0x00000509#32 := by decide
/-- Width 12 and height 12: the width is checked first (R112); STATUS of an ENCODE fault of code 6. -/
theorem test_encode_width_first :
    after (exec .encode { idleA8 with width := 12#32, height := 12#32 }) State.status
      = some 0x0000006C#32 := by decide

theorem test_fmtA8_idle : after (exec .fmtA8 State.reset) State.fmtid = some 8#32 := by decide
/-- R117: ignored while busy. -/
theorem test_fmtA8_busy : after (exec .fmtA8 (inPhase Phase.eHdr)) State.fmtid = some 0#32 := by decide

/-- S5: bytes 89 50 4E 47 fail with code 2 and MAGIC holds 0x474E5089. -/
theorem test_stepDHdr_bad_magic :
    after (exec .stepDHdr (hdrState 3#7 0x004E5089#32 0x47#8)) (fun t => (t.status, t.magic))
      = some (0x00000024#32, 0x474E5089#32) := by decide
/-- S7: hdr(10, 8, 28), its last byte: code 6 with PAYOFF 28. -/
theorem test_stepDHdr_width_10 :
    after (exec .stepDHdr
      { hdrState 27#7 0x0000001C#32 0#8 with
        fmtid := 8#32, width := 10#32, height := 8#32, pixbits := 8#32 })
      (fun t => (t.status, t.payoff)) = some (0x00000064#32, 28#32) := by decide

/-- R143: the last padding byte of a good 8 × 8 image hands over to D_FILL. -/
theorem test_stepDPad_last :
    after (exec .stepDPad { blockState Phase.dPad 0#6 with skip := 1#32, source := [.byte 0xAA#8] })
      (fun t => (t.status, t.skip)) = some (0x00000301#32, 0#32) := by decide
/-- R221: the stream ends in the padding. -/
theorem test_stepDPad_end :
    after (exec .stepDPad { blockState Phase.dPad 0#6 with skip := 2#32 })
      (fun t => (t.status, t.skip)) = some (0x00000014#32, 2#32) := by decide

theorem test_stepDFill_lands :
    after (exec .stepDFill { blockState Phase.dFill 5#6 with source := [.byte 0x11#8] })
      (fun t => (blkGet t.blk 5#6, blkGet t.blk 6#6, t.idx)) = some (0x11#8, 0x00#8, 6#6) := by decide
theorem test_stepDFill_last :
    after (exec .stepDFill { blockState Phase.dFill 63#6 with source := [.byte 0x11#8] })
      (fun t => (t.status, t.idx)) = some (0x00000401#32, 0#6) := by decide

/-- S8: element 42 of the block is pixel (0, 0); FF unpacks to (15, 15, 15, 240). -/
theorem test_stepDDrain_element_42 :
    after (exec .stepDDrain
      { blockState Phase.dDrain 42#6 with blk := Vector.replicate 64 0xFF#8 })
      (fun t => t.raster.pixel 0#32 0#32) = some ⟨15#8, 15#8, 15#8, 240#8⟩ := by decide
/-- S8: element 2 is pixel (0, 6), here of block (1, 2). -/
theorem test_stepDDrain_element_2 :
    after (exec .stepDDrain
      { blockState Phase.dDrain 2#6 with bX := 1#29, bY := 2#29, blk := Vector.replicate 64 0x11#8 })
      (fun t => (t.raster.pixel 8#32 22#32, t.raster.pixel 0#32 6#32, t.idx))
      = some (⟨1#8, 1#8, 1#8, 16#8⟩, ⟨0#8, 0#8, 0#8, 0#8⟩, 3#6) := by decide

/-- S2: header byte 8 of a 24 × 40 image is 18 hexadecimal. -/
theorem test_stepEHdr_width_byte :
    after (exec .stepEHdr
      { inPhase Phase.eHdr with fmtid := 8#32, width := 24#32, height := 40#32, hcnt := 8#7 })
      (fun t => (t.outBytes, t.hcnt)) = some ([0x18#8], 9#7) := by decide
/-- The last header byte hands over to E_GATHER. -/
theorem test_stepEHdr_last :
    after (exec .stepEHdr { blockState Phase.eHdr 0#6 with hcnt := 127#7, dir := true })
      (fun t => (t.outBytes, t.status)) = some ([0x00#8], 0x00000609#32) := by decide

/-- S4: (15, 15, 15, 255) packs to FF. -/
theorem test_stepEGather_packs :
    after (exec .stepEGather
      { blockState Phase.eGather 42#6 with
        raster := Memory.setPixel [] 0#32 0#32 ⟨15#8, 15#8, 15#8, 255#8⟩ })
      (fun t => (blkGet t.blk 42#6, t.idx)) = some (0xFF#8, 43#6) := by decide
theorem test_stepEGather_last :
    after (exec .stepEGather { blockState Phase.eGather 63#6 with dir := true }) State.status
      = some 0x00000709#32 := by decide

/-- The last byte of the last block ends the ENCODE well. -/
theorem test_stepEEmit_last :
    after (exec .stepEEmit { blockState Phase.eEmit 63#6 with dir := true }) State.status
      = some 0x0000000A#32 := by decide
/-- R221: a refused byte is no output and is error 1. -/
theorem test_stepEEmit_refused :
    after (exec .stepEEmit { blockState Phase.eEmit 0#6 with dir := true, sink := ⟨[], .fail⟩ })
      (fun t => (t.outBytes, t.status)) = some ([], 0x0000001C#32) := by decide

/-! ### The arithmetic of the source's examples (S3, S4, S8) -/

theorem test_unpack_ff : unpackA8 0xFF#8 = ⟨15#8, 15#8, 15#8, 240#8⟩ := by decide
theorem test_pack_opaque_black : packA8 ⟨0#8, 0#8, 0#8, 255#8⟩ = 0x0F#8 := by decide
theorem test_pack_opaque_gray : packA8 ⟨128#8, 128#8, 128#8, 255#8⟩ = 0x0F#8 := by decide
theorem test_traversal_42 : traversal 42#6 = (0#3, 0#3) := by decide

/-! ### The first step after reset runs the word that is fetched -/

theorem test_first_step_decode :
    after (step (State.reset.withFetchWord 32 1)) State.status = some 0x00000101#32 := by decide
/-- No format is selected after reset: UnsupportedFormat. -/
theorem test_first_step_encode :
    after (step (State.reset.withFetchWord 32 2)) State.status = some 0x0000003C#32 := by decide
theorem test_first_step_fmtA8 :
    after (step (State.reset.withFetchWord 32 8)) State.fmtid = some 8#32 := by decide
/-- Nothing is attached to IN after reset: IOError. -/
theorem test_first_step_stepDHdr :
    after (step (State.reset.withFetchWord 8 1)) State.status = some 0x00000014#32 := by decide
/-- R31: no step is taken in a reserved phase. -/
theorem test_reserved_phase_faults :
    step (State.reset.withCode (.phase 9#4)) = .fault (.reservedPhase 9#4) := rfl

/-! ### Witnesses: for every statement with hypotheses, a concrete case that meets them all -/

theorem witness_CodesAndOperationsAgree : decodeCode (.phase 7#4) = .ok .stepEEmit := by decide

/-- A sequencer turn, a command, a format identifier. -/
theorem witness_StepRunsTheDecodedOperation :
    (let s := withTurns (inPhase Phase.dHdr) [.sequencer]
     s.rst = false ∧ s.turns = .sequencer :: [] ∧ decodeCode (.phase s.phase) = .ok .stepDHdr) ∧
    (let s := withTurns State.reset [.host (.csrWrite 0x20#32 .word 2#32)]
     s.rst = false ∧ s.turns = .host (.csrWrite 0x20#32 .word 2#32) :: [] ∧
       decodeCode (.cmd 2#32) = .ok .encode) ∧
    (let s := withTurns State.reset [.host (.csrWrite 0x04#32 .word 8#32)]
     s.rst = false ∧ s.turns = .host (.csrWrite 0x04#32 .word 8#32) :: [] ∧
       decodeCode (.fmt 8#32) = .ok .fmtA8) :=
  ⟨⟨rfl, rfl, rfl⟩, ⟨rfl, rfl, rfl⟩, ⟨rfl, rfl, rfl⟩⟩

theorem witness_IdleBlockTakesNoStep :
    ((withTurns idleA8 [.sequencer]).phase = Phase.idle ∧
      (withTurns idleA8 [.sequencer]).turns = .sequencer :: []) ∧ idleA8.turns = [] :=
  ⟨⟨rfl, rfl⟩, rfl⟩

/-- The smallest reserved value and the largest. -/
theorem witness_ReservedCommandChangesNothing :
    (∀ v ∈ [3#32, 0xFFFFFFFF#32], v ≠ 0#32 ∧ v ≠ 1#32 ∧ v ≠ 2#32 ∧
      (withTurns idleA8 [.host (.csrWrite 0x20#32 .word v)]).turns =
        .host (.csrWrite 0x20#32 .word v) :: []) := by
  intro v hv
  fin_cases hv <;> decide

theorem witness_DecodeCommandStartsParsing :
    idleA8.phase = Phase.idle ∧ (inPhase Phase.eEmit).phase ≠ Phase.idle := by
  decide

/-- Busy, then each branch: no format, width 12, height 12, all good. -/
theorem witness_EncodeCommandChecksThenStarts :
    (inPhase Phase.dHdr).phase ≠ Phase.idle ∧
    (State.reset.phase = Phase.idle ∧ State.reset.fmtid ≠ 8#32) ∧
    (let s := { idleA8 with width := 12#32 }
     s.phase = Phase.idle ∧ s.fmtid = 8#32 ∧ s.width.toNat % 8 ≠ 0) ∧
    (let s := { idleA8 with height := 12#32 }
     s.phase = Phase.idle ∧ s.fmtid = 8#32 ∧ s.width.toNat % 8 = 0 ∧ s.height.toNat % 8 ≠ 0) ∧
    (idleA8.phase = Phase.idle ∧ idleA8.fmtid = 8#32 ∧ idleA8.width.toNat % 8 = 0 ∧
      idleA8.height.toNat % 8 = 0) := by
  decide

theorem witness_FormatIdentifierSelectsA8 :
    State.reset.phase = Phase.idle ∧ (inPhase Phase.eHdr).phase ≠ Phase.idle := by
  decide

theorem witness_AccumulatorTakesOneByte : (0 < 4 ∧ 3 < 4) ∧ (3 < 4 ∧ 3 < 4) := by decide

/-- The first header byte, and the last that completes no field. -/
theorem witness_HeaderByteInsideField :
    ∀ k ∈ [0#7, 26#7], (hdrState k 0#32 0x63#8).source = .byte 0x63#8 :: [] ∧
      (hdrState k 0#32 0x63#8).hcnt.toNat % 4 ≠ 3 ∧ (hdrState k 0#32 0x63#8).hcnt.toNat < 27 := by
  decide

/-- The six fields; the first with the right magic, the second with the identifier 8. -/
theorem witness_HeaderFieldLands :
    (let s := hdrState 3#7 0x00746300#32 0x65#8
     s.source = .byte 0x65#8 :: [] ∧ s.hcnt = 3#7 ∧ insertByte s.acc 3 0x65#8 = 0x65746300#32) ∧
    (let s := hdrState 7#7 8#32 0#8
     s.source = .byte 0#8 :: [] ∧ s.hcnt = 7#7 ∧ insertByte s.acc 3 0#8 = 8#32) ∧
    (∀ k ∈ [11#7, 15#7, 19#7, 23#7], (hdrState k 0xFFFFFF#32 0xFF#8).source = .byte 0xFF#8 :: [] ∧
      (hdrState k 0xFFFFFF#32 0xFF#8).hcnt = k) := by
  decide

theorem witness_HeaderFieldFaults :
    (let s := hdrState 3#7 0x004E5089#32 0x47#8
     s.source = .byte 0x47#8 :: [] ∧ s.hcnt = 3#7 ∧ insertByte s.acc 3 0x47#8 ≠ 0x65746300#32) ∧
    (let s := hdrState 7#7 7#32 0#8
     s.source = .byte 0#8 :: [] ∧ s.hcnt = 7#7 ∧ insertByte s.acc 3 0#8 ≠ 8#32) := by
  decide

/-- The four branches: a wrong length, the offsets 27, 28 and 29. -/
theorem witness_HeaderEndChecks :
    (let s := { hdrState 27#7 28#32 0#8 with fmtid := 8#32, pixbits := 16#32 }
     s.source = .byte 0#8 :: [] ∧ s.hcnt = 27#7 ∧ s.fmtid = 8#32 ∧ s.pixbits ≠ 8#32) ∧
    (∀ off ∈ [27#32, 28#32, 29#32],
      let s := { hdrState 27#7 off 0#8 with fmtid := 8#32, pixbits := 8#32 }
      s.source = .byte 0#8 :: [] ∧ s.hcnt = 27#7 ∧ s.fmtid = 8#32 ∧ s.pixbits = 8#32 ∧
        insertByte s.acc 3 0#8 = off) := by
  refine ⟨by decide, fun off h => ?_⟩
  fin_cases h <;> decide

/-- In D_HDR at a field's first offset with these four bytes and four sequencer turns to come. -/
def fieldState (k : BitVec 7) (px : Word) (b0 b1 b2 b3 : Byte) : State :=
  { inPhase Phase.dHdr with
    hcnt := k, fmtid := 8#32, pixbits := px, turns := List.replicate 4 Turn.sequencer ++ []
    source := [.byte b0, .byte b1, .byte b2, .byte b3] }

/-- The seven fields; the checked ones with a value that passes and one that does not (a pixel length of
9, an offset of 27), the offset also at 28 and 29. -/
theorem witness_FourHeaderBytesMakeAField :
    (∀ (k : BitVec 7) (px : Word) (b0 b1 b2 b3 : Byte),
      let s := fieldState k px b0 b1 b2 b3
      s.phase = Phase.dHdr ∧ s.rst = false ∧ s.hcnt = k ∧ s.fmtid = 8#32 ∧ s.pixbits = px ∧
        s.source = .byte b0 :: .byte b1 :: .byte b2 :: .byte b3 :: [] ∧
        s.turns = List.replicate 4 .sequencer ++ []) ∧
    (u32 0x00#8 0x63#8 0x74#8 0x65#8 = 0x65746300#32 ∧ u32 0x89#8 0x50#8 0x4E#8 0x47#8 ≠ 0x65746300#32) ∧
    (u32 8#8 0#8 0#8 0#8 = 8#32 ∧ u32 8#8 0#8 0#8 1#8 ≠ 8#32) ∧
    ((u32 27#8 0#8 0#8 0#8).toNat < 28 ∧ (u32 28#8 0#8 0#8 0#8).toNat = 28 ∧
      28 < (u32 29#8 0#8 0#8 0#8).toNat ∧ (9#32 : Word) ≠ 8#32) :=
  ⟨fun _ _ _ _ _ _ => ⟨rfl, rfl, rfl, rfl, rfl, rfl, rfl⟩, by decide, by decide, by decide⟩

/-- The last padding byte, and the first of the longest padding. -/
theorem witness_PaddingByteStep :
    ∀ k ∈ [1#32, 0xFFFFFFE3#32],
      let s := { inPhase Phase.dPad with skip := k, source := [.byte 0xAA#8] }
      s.source = .byte 0xAA#8 :: [] ∧ 1 ≤ s.skip.toNat := by
  intro k hk
  fin_cases hk <;> decide

/-- Block (0, 1) of a 16 × 16 image goes on; block (1, 0) is its last. -/
theorem witness_NextBlockRule :
    (let s := { idleA8 with width := 16#32, height := 16#32, bY := 1#29 }
     s.InBlocks ∧ Phase.dFill ≠ Phase.idle ∧ groupOf s.width s.height s.bX s.bY + 1 < 4) ∧
    (let s := { idleA8 with width := 16#32, height := 16#32, bX := 1#29 }
     s.InBlocks ∧ Phase.eGather ≠ Phase.idle ∧ groupOf s.width s.height s.bX s.bY + 1 = 4) :=
  ⟨⟨⟨by decide, by decide, by decide, by decide, by decide⟩, by decide, by decide⟩,
    ⟨⟨by decide, by decide, by decide, by decide, by decide⟩, by decide, by decide⟩⟩

theorem witness_FillStep :
    ∀ i ∈ [0#6, 62#6, 63#6],
      let s := { blockState Phase.dFill i with source := [.byte 0x11#8] }
      s.source = .byte 0x11#8 :: [] ∧ s.idx = i := by
  decide

theorem witness_EmitHeaderByteStep :
    ({ inPhase Phase.eHdr with sink := ⟨[.ok], .fail⟩ }.sink.answers = .ok :: []) ∧
    ((inPhase Phase.eHdr).sink.answers = [] ∧ (inPhase Phase.eHdr).sink.thereafter = .ok) :=
  ⟨rfl, rfl, rfl⟩

theorem witness_EmitStep :
    ({ blockState Phase.eEmit 63#6 with sink := ⟨[.ok], .fail⟩ }.sink.answers = .ok :: []) ∧
    ((blockState Phase.eEmit 0#6).sink.answers = [] ∧
      (blockState Phase.eEmit 0#6).sink.thereafter = .ok) :=
  ⟨rfl, rfl, rfl⟩

/-- A source that answers `Fail`, a source at its end; a sink that refuses once, one that refuses for
ever. -/
theorem witness_FailedTransferRaisesIOError :
    { inPhase Phase.dHdr with source := [.fail] }.source = .fail :: [] ∧
    (inPhase Phase.dFill).source = [] ∧
    { inPhase Phase.eHdr with sink := ⟨[.fail], .ok⟩ }.sink.answers = .fail :: [] ∧
    ({ inPhase Phase.eHdr with sink := ⟨[], .fail⟩ }.sink.answers = [] ∧
      { inPhase Phase.eHdr with sink := ⟨[], .fail⟩ }.sink.thereafter = .fail) :=
  ⟨rfl, rfl, rfl, rfl, rfl⟩

/-- Every word, the first offset past the words, an odd offset, a narrow access. -/
theorem witness_CsrReadTable :
    (∀ off ∈ [0x00#32, 0x04#32, 0x08#32, 0x0C#32, 0x10#32, 0x14#32, 0x18#32, 0x1C#32, 0x20#32, 0x24#32],
      (withTurns idleA8 [.host (.csrRead off .word)]).turns = .host (.csrRead off .word) :: []) ∧
    (withTurns idleA8 [.host (.csrRead 0x28#32 .word)]).turns = .host (.csrRead 0x28#32 .word) :: [] ∧
    (withTurns idleA8 [.host (.csrRead 0x25#32 .word)]).turns = .host (.csrRead 0x25#32 .word) :: [] ∧
    (withTurns idleA8 [.host (.csrRead 0x24#32 .byte)]).turns = .host (.csrRead 0x24#32 .byte) :: [] ∧
    0x28 ≤ (0x28#32).toNat ∧ (0x25#32).toNat % 4 ≠ 0 ∧ AccessSize.byte ≠ .word := by
  refine ⟨fun off h => ?_, by decide⟩
  fin_cases h <;> rfl

theorem witness_CsrWriteRule :
    ∀ off ∈ [0x04#32, 0x08#32, 0x0C#32, 0x20#32, 0x24#32],
      let s := withTurns idleA8 [.host (.csrWrite off .word 2#32)]
      s.rst = false ∧ s.turns = .host (.csrWrite off .word 2#32) :: [] := by
  intro off h
  fin_cases h <;> exact ⟨rfl, rfl⟩

theorem witness_RstAssertionResetsTheBlock :
    (withTurns (blockState Phase.dDrain 63#6) [.host .rstAssert]).turns = .host .rstAssert :: [] := rfl

theorem witness_RstHoldsTheBlock :
    let s := { withTurns State.reset [.host (.csrWrite 0x20#32 .word 1#32)] with rst := true }
    s.rst = true ∧ s.turns.head? ≠ some (.host .rstAssert) ∧ step s = .next (quietStep s) :=
  ⟨rfl, by decide, rfl⟩

/-- A pixel that comes back and one that does not. -/
theorem witness_PackAndUnpackInverses :
    unpackA8 (packA8 ⟨15#8, 15#8, 15#8, 240#8⟩) = ⟨15#8, 15#8, 15#8, 240#8⟩ ∧
    unpackA8 (packA8 ⟨16#8, 16#8, 16#8, 240#8⟩) ≠ ⟨16#8, 16#8, 16#8, 240#8⟩ := by
  decide

/-- The smallest image and the largest. -/
theorem witness_PayloadPositionIsABijection :
    ∀ n ∈ [8#32, 0xFFFFFFF8#32], n.toNat % 8 = 0 ∧
      (∀ b ∈ [0#29, BitVec.ofNat 29 (n.toNat / 8 - 1)], b.toNat < n.toNat / 8) ∧
      (∀ x ∈ [0#32, n - 1#32], x.toNat < n.toNat) ∧
      (∀ k ∈ [0, n.toNat * n.toNat - 1], k < n.toNat * n.toNat) := by
  intro n hn
  fin_cases hn
  all_goals
    refine ⟨by decide, fun b hb => ?_, fun x hx => ?_, fun k hk => ?_⟩
    · fin_cases hb <;> decide
    · fin_cases hx <;> decide
    · fin_cases hk <;> decide

/-- A state of the middle of a DECODE, with the invariant. -/
def midDecode : State :=
  { blockState Phase.dFill 63#6 with
    magic := Config.magicWord, pixbits := 8#32, payoff := 28#32
    source := [.byte 0x11#8], turns := [.sequencer] }

theorem midDecode_inv : midDecode.Inv where
  phaseLegal := by decide
  errLegal := by decide
  doneMeans := by decide
  errMeans := by decide
  decodeDir := by decide
  encodeDir := by decide
  headerCount := by decide
  skipRange := by decide
  inBlocks := fun _ => ⟨by decide, by decide, by decide, by decide, by decide⟩
  magicRead := by decide
  formatRead := by decide
  headerRead := by decide
  encodeDims := by decide
  encodeErrors := by decide
  freshDir := by decide
  held := fun h => nomatch h
  canonical := by decide

theorem witness_InvariantKeptByEveryStep :
    midDecode.Inv ∧ ∃ t, step midDecode = .next t :=
  ⟨midDecode_inv, _, rfl⟩

theorem witness_InvariantAtReset : Memory.wf [(0, 15#8), (3, 240#8)] := by decide

theorem witness_StepNeverStops : midDecode.Inv := midDecode_inv

theorem witness_OnlyTheseStatusValues : midDecode.Inv ∧ midDecode.status = 0x00000301#32 :=
  ⟨midDecode_inv, by decide⟩

/-- A running block, and an idle one to which the first command comes. -/
theorem witness_OneOutcomeFromFirstCommandOn :
    (midDecode.Inv ∧ (∃ t, step midDecode = .next t) ∧ midDecode.hasOutcome = true ∧
      midDecode.turns.head? ≠ some (.host .rstAssert)) ∧
    (let s := withTurns State.reset [.host (.csrWrite 0x20#32 .word 1#32)]
     (∃ t, step s = .next t ∧ t.hasOutcome = true) ∧ s.hasOutcome = false) :=
  ⟨⟨midDecode_inv, ⟨_, rfl⟩, by decide, by decide⟩, ⟨⟨_, rfl, by decide⟩, by decide⟩⟩

/-- An end by an error: the stream ends. -/
theorem witness_OneOperationAtATime :
    let s := { midDecode with source := [] }
    s.phase ≠ Phase.idle ∧ ∃ t, step s = .next t ∧ t.phase = Phase.idle :=
  ⟨by decide, _, rfl, by decide⟩

/-- A state with the invariant keeps it whatever moves are to come. -/
theorem inv_withTurns {s : State} (h : s.Inv) (ts : List Turn) : (withTurns s ts).Inv :=
  { h with
    inBlocks := fun hp => { h.inBlocks hp with }
    held := fun hr => { h.held hr with } }

theorem reset_inv : State.reset.Inv where
  phaseLegal := by decide
  errLegal := by decide
  doneMeans := by decide
  errMeans := by decide
  decodeDir := by decide
  encodeDir := by decide
  headerCount := by decide
  skipRange := by decide
  inBlocks := fun h => absurd h (by decide)
  magicRead := by decide
  formatRead := by decide
  headerRead := by decide
  encodeDims := by decide
  encodeErrors := by decide
  freshDir := by decide
  held := fun h => nomatch h
  canonical := by decide

/-- A sequencer step with a change of PHASE, `rst`, a DECODE, an ENCODE, and another move. -/
theorem witness_PhaseTransitions :
    (midDecode.Inv ∧ midDecode.rst = false ∧ midDecode.phase ≠ Phase.idle ∧
      midDecode.turns.head? = some .sequencer ∧
      ∃ t, step midDecode = .next t ∧ t.phase ≠ midDecode.phase) ∧
    (∀ a ∈ [HostAct.rstAssert, .csrWrite 0x20#32 .word 1#32, .csrWrite 0x20#32 .word 2#32,
        .csrWrite 0x08#32 .word 16#32],
      let s := withTurns State.reset [.host a]
      s.Inv ∧ s.rst = false ∧ s.phase = Phase.idle ∧ s.turns.head? = some (.host a) ∧
        ∃ t, step s = .next t) := by
  refine ⟨⟨midDecode_inv, rfl, by decide, rfl, _, rfl, by decide⟩, fun a ha => ?_⟩
  refine ⟨inv_withTurns reset_inv _, rfl, rfl, rfl, ?_⟩
  fin_cases ha <;> exact ⟨_, rfl⟩

/-- One state in each of the seven phases. -/
theorem witness_OneTransferPerSequencerStep :
    ∀ p ∈ [Phase.dHdr, Phase.dPad, Phase.dFill, Phase.dDrain, Phase.eHdr, Phase.eGather, Phase.eEmit],
      let s := withTurns (blockState p 0#6) [.sequencer]
      s.turns = .sequencer :: [] ∧ s.rst = false ∧ s.phase ≠ Phase.idle ∧ s.phase = p ∧
        (after (step s) State.phase).isSome = true := by
  decide

theorem witness_NoTransferWithoutTheSequencer :
    (∃ t, idleA8.phase = Phase.idle ∧ step idleA8 = .next t) ∧
    (let s := withTurns midDecode [.host (.csrRead 0x24#32 .word)]
     s.turns.head? ≠ some .sequencer ∧ ∃ t, step s = .next t) :=
  ⟨⟨_, rfl, rfl⟩, by decide, _, rfl⟩

theorem witness_HostCannotDisturbARunningOperation :
    let s := withTurns midDecode [.host (.csrWrite 0x08#32 .word 16#32)]
    s.phase ≠ Phase.idle ∧ s.turns = .host (.csrWrite 0x08#32 .word 16#32) :: [] ∧
      HostAct.csrWrite 0x08#32 .word 16#32 ≠ .rstAssert ∧ ∃ t, step s = .next t :=
  ⟨by decide, rfl, by decide, _, rfl⟩

theorem witness_EncodeKeepsRegistersAndRaster :
    (∃ t, exec .encode idleA8 = .next t) ∧
    (∃ t, exec .stepEHdr (blockState Phase.eHdr 0#6) = .next t) ∧
    (∃ t, exec .stepEGather (blockState Phase.eGather 0#6) = .next t) ∧
    (∃ t, exec .stepEEmit (blockState Phase.eEmit 0#6) = .next t) :=
  ⟨⟨_, rfl⟩, ⟨_, rfl⟩, ⟨_, rfl⟩, ⟨_, rfl⟩⟩

/-- Sixty-four bytes at the start of a block. -/
theorem witness_OneBlockDecodes :
    let bs : List Byte := List.replicate 64 0x11#8
    let s := { blockState Phase.dFill 0#6 with
      source := bs.map InAnswer.byte ++ [], turns := List.replicate 128 Turn.sequencer ++ [] }
    s.phase = Phase.dFill ∧ s.idx = 0#6 ∧ s.rst = false ∧ bs.length = 64 ∧
      s.source = bs.map .byte ++ [] ∧ s.turns = List.replicate 128 .sequencer ++ [] :=
  ⟨rfl, rfl, rfl, rfl, rfl, rfl⟩

/-- A block before a DECODE of this file, with `n` sequencer turns to come. -/
def beforeDecode (file : List Byte) (n : Nat) : State :=
  { State.reset with source := file.map .byte, turns := List.replicate n .sequencer }

/-- The view of a run that the whole-operation statements ask about. -/
def endOf (o : Option State) : Option (BitVec 4 × Bool × BitVec 4) :=
  o.map (fun t => (t.phase, t.done, t.errcode))

theorem endOf_some {o : Option State} {v : BitVec 4 × Bool × BitVec 4} (h : endOf o = some v) :
    ∃ t, o = some t ∧ t.phase = v.1 ∧ t.done = v.2.1 ∧ t.errcode = v.2.2 := by
  cases o with
  | none => cases h
  | some t =>
    cases h
    exact ⟨t, rfl, rfl, rfl, rfl⟩

/-- The 156 transfers of an 8 × 8 image: 28 header bytes, 64 payload bytes, 64 pixels. -/
theorem witness_DecodeThatEndsWell :
    let file := hdr 8#8 8#8 28#8 ++ List.replicate 64 0x11#8
    let s := beforeDecode file 156
    s.source = file.map .byte ∧
      ∃ t, runOperation Turn.sparesDecode 156 s.startDecode = some t ∧ t.phase = Phase.idle ∧
        t.done = true ∧ t.errcode = 0#4 :=
  ⟨rfl, endOf_some (v := (Phase.idle, true, 0#4)) (by decide +kernel)⟩

/-- The stream ends in the first block of a 16 × 8 image, and in the second: no block and one block
have been received whole. -/
theorem witness_FaultedDecodeKeepsWholeBlocks :
    ∀ k ∈ [1, 65],
      let file := hdr 16#8 8#8 28#8 ++ List.replicate k 0x11#8
      let s := beforeDecode file 158
      s.source = file.map .byte ∧
        ∃ t, runOperation Turn.sparesDecode 158 s.startDecode = some t ∧ t.phase = Phase.idle ∧
          t.done = false ∧ t.errcode = 1#4 := by
  intro k hk
  fin_cases hk
  · exact ⟨rfl, endOf_some (v := (Phase.idle, false, 1#4)) (by decide +kernel)⟩
  · exact ⟨rfl, endOf_some (v := (Phase.idle, false, 1#4)) (by decide +kernel)⟩

/-- An 8 × 8 image: 128 header bytes, 64 pixels, 64 payload bytes. -/
theorem witness_EncodeThatEndsWell :
    let s := withTurns idleA8 (List.replicate 256 .sequencer)
    s.phase = Phase.idle ∧
      ∃ t, runOperation Turn.sparesEncode 256 s.startEncode = some t ∧ t.phase = Phase.idle ∧
        t.done = true ∧ t.errcode = 0#4 :=
  ⟨rfl, endOf_some (v := (Phase.idle, true, 0#4)) (by decide +kernel)⟩

/-- A DECODE of this file ends within `n` steps with this ERRCODE. -/
def EndsWith (file : List Byte) (n : Nat) (code : BitVec 4) : Prop :=
  ∃ t, runOperation Turn.sparesDecode n (beforeDecode file n).startDecode = some t ∧
    t.phase = Phase.idle ∧ t.errcode = code

theorem endsWith_of {file : List Byte} {n : Nat} {d : Bool} {code : BitVec 4}
    (h : endOf (runOperation Turn.sparesDecode n (beforeDecode file n).startDecode)
      = some (Phase.idle, d, code)) : EndsWith file n code := by
  obtain ⟨t, h1, h2, -, h3⟩ := endOf_some h
  exact ⟨t, h1, h2, h3⟩

/-- The seven ends of a DECODE by an error; the two good ends are `witness_DecodeThatEndsWell` and
`witness_EncodeThatEndsWell`. -/
theorem witness_TransferCounts :
    EndsWith [] 1 1#4 ∧ EndsWith [0x89#8, 0x50#8, 0x4E#8, 0x47#8] 4 2#4 ∧
    EndsWith [0x00#8, 0x63#8, 0x74#8, 0x65#8, 7#8, 0#8, 0#8, 0#8] 8 3#4 ∧
    EndsWith (hdr 8#8 8#8 27#8) 28 4#4 ∧ EndsWith ((hdr 8#8 8#8 28#8).set 16 16#8) 28 5#4 ∧
    EndsWith (hdr 10#8 8#8 28#8) 28 6#4 ∧ EndsWith (hdr 8#8 10#8 30#8 ++ [0#8, 0#8]) 30 7#4 :=
  ⟨endsWith_of (d := false) (by decide +kernel), endsWith_of (d := false) (by decide +kernel),
    endsWith_of (d := false) (by decide +kernel), endsWith_of (d := false) (by decide +kernel),
    endsWith_of (d := false) (by decide +kernel), endsWith_of (d := false) (by decide +kernel),
    endsWith_of (d := false) (by decide +kernel)⟩

/-- A running operation; the good file of an 8 × 8 image with bytes after it, and of an empty image; an
ENCODE of an 8 × 8 image into a sink that accepts all. -/
theorem witness_EveryOperationEnds :
    (midDecode.Inv ∧ midDecode.rst = false) ∧
    (∀ file ∈ [hdr 8#8 8#8 30#8 ++ List.replicate 66 0x11#8, hdr 0#8 8#8 28#8],
      let s := { State.reset with source := file.map InAnswer.byte ++ [InAnswer.byte 0xFF#8] }
      s.phase = Phase.idle ∧ s.rst = false ∧ s.source = file.map .byte ++ [.byte 0xFF#8] ∧
        fileField file 0 = 0x65746300#32 ∧ fileField file 4 = 8#32 ∧
        (fileField file 8).toNat % 8 = 0 ∧ (fileField file 12).toNat % 8 = 0 ∧
        fileField file 16 = 8#32 ∧ 28 ≤ (fileField file 24).toNat ∧
        (fileField file 24).toNat + (fileField file 8).toNat * (fileField file 12).toNat
          ≤ file.length) ∧
    (idleA8.phase = Phase.idle ∧ idleA8.rst = false ∧ idleA8.fmtid = 8#32 ∧
      idleA8.width.toNat % 8 = 0 ∧ idleA8.height.toNat % 8 = 0 ∧
      (∀ a ∈ idleA8.sink.answers, a = .ok) ∧ idleA8.sink.thereafter = .ok) := by
  refine ⟨⟨midDecode_inv, rfl⟩, fun file h => ⟨rfl, rfl, rfl, ?_⟩, by decide⟩
  fin_cases h <;> decide

/-- An image of 16 × 8 and an empty one. -/
theorem witness_HeaderRoundTrip :
    ∀ wh ∈ [(16#32, 8#32), (0#32, 8#32)],
      let s := { State.reset with
        source := (canonicalHeader 8#32 wh.1 wh.2).map InAnswer.byte ++ []
        turns := .host (.csrWrite 0x20#32 .word 1#32) :: (List.replicate 128 Turn.sequencer ++ []) }
      s.phase = Phase.idle ∧ s.rst = false ∧ wh.1.toNat % 8 = 0 ∧ wh.2.toNat % 8 = 0 ∧
        s.source = (canonicalHeader 8#32 wh.1 wh.2).map InAnswer.byte ++ [] ∧
        s.turns = .host (.csrWrite 0x20#32 .word 1#32) ::
          (List.replicate 128 Turn.sequencer ++ []) := by
  intro wh h
  fin_cases h <;> exact ⟨rfl, rfl, rfl, rfl, rfl, rfl⟩

/-- The file of an 8 × 8 image. -/
def goodFile : List Byte := hdr 8#8 8#8 28#8 ++ List.replicate 64 0x11#8

/-- The decoded state, with the sequencer turns of an ENCODE to come. -/
def encodeNext (t : State) : State := withTurns t (List.replicate 256 .sequencer)

/-- A DECODE of that file ends well, and the ENCODE begun where it ended does. -/
theorem witness_PayloadRoundTrip :
    ∃ t v, (beforeDecode goodFile 156).source = goodFile.map .byte ∧
      runOperation Turn.sparesDecode 156 (beforeDecode goodFile 156).startDecode = some t ∧
      t.phase = Phase.idle ∧ t.done = true ∧ (encodeNext t).phase = Phase.idle ∧
      (encodeNext t).fmtid = t.fmtid ∧ (encodeNext t).width = t.width ∧
      (encodeNext t).height = t.height ∧ (encodeNext t).raster = t.raster ∧
      runOperation Turn.sparesEncode 256 (encodeNext t).startEncode = some v ∧
      v.phase = Phase.idle ∧ v.done = true := by
  have h1 : endOf (runOperation Turn.sparesDecode 156 (beforeDecode goodFile 156).startDecode)
      = some (Phase.idle, true, 0#4) := by decide +kernel
  have h2 : endOf ((runOperation Turn.sparesDecode 156 (beforeDecode goodFile 156).startDecode).bind
      (fun t => runOperation Turn.sparesEncode 256 (encodeNext t).startEncode))
      = some (Phase.idle, true, 0#4) := by decide +kernel
  obtain ⟨t, ht, hp, hd, -⟩ := endOf_some h1
  rw [ht] at h2
  obtain ⟨v, hv, hvp, hvd, -⟩ := endOf_some h2
  exact ⟨t, v, rfl, ht, hp, hd, hp, rfl, rfl, rfl, rfl, hv, hvp, hvd⟩

/-- A sink that refuses the third byte; a format that does not resolve. -/
theorem witness_FaultedEncodeWroteAPrefix :
    (let s := { idleA8 with sink := ⟨[.ok, .ok], .fail⟩, turns := List.replicate 3 .sequencer }
     s.phase = Phase.idle ∧
      ∃ t, runOperation Turn.sparesEncode 3 s.startEncode = some t ∧ t.phase = Phase.idle ∧
        t.done = false ∧ t.errcode = 1#4) ∧
    (State.reset.phase = Phase.idle ∧
      ∃ t, runOperation Turn.sparesEncode 1 State.reset.startEncode = some t ∧
        t.phase = Phase.idle ∧ t.done = false ∧ t.errcode = 3#4) :=
  ⟨⟨rfl, endOf_some (v := (Phase.idle, false, 1#4)) (by decide +kernel)⟩,
    ⟨rfl, endOf_some (v := (Phase.idle, false, 3#4)) (by decide +kernel)⟩⟩

end Sys2Proof.Tests
end

section
/-! PROOF. The format identifier 8: its write by the host and the format table lookup (R6, R84, R117). -/

namespace Sys2Proof.Machine

/-- R117: an idle block takes the written identifier. -/
theorem State.hostFormat_of_idle {s : State} (h : s.phase = Phase.idle) (id : Word) :
    s.hostFormat id = { s with fmtid := id } := if_pos h

/-- R117: a busy block ignores the write. -/
theorem State.hostFormat_of_busy {s : State} (h : s.phase ≠ Phase.idle) (id : Word) :
    s.hostFormat id = s := if_neg h

theorem exec_fmtA8 (s : State) : exec .fmtA8 s = .next (s.hostFormat 8#32) := rfl

/-- The two laws of the format table lookup as one equation: R84 has a single row. -/
theorem resolve_eq_ite (id : Word) : resolve id = if id = 8#32 then some .a8 else none := by
  split
  case isTrue h => exact (resolve_some id .a8).mpr h
  case isFalse h => exact (resolve_none id).mpr h

@[simp] theorem Variant.unpack_a8 : Variant.unpack .a8 = unpackA8 := rfl

@[simp] theorem Variant.pack_a8 : Variant.pack .a8 = packA8 := rfl

/-- Settles O9: the write splits on whether the block is idle, the lookup on the identifier. -/
theorem formatIdentifierSelectsA8 : Obligations.FormatIdentifierSelectsA8 := by
  unfold Obligations.FormatIdentifierSelectsA8
  refine ⟨fun s idle => ?_, fun s busy => ?_, resolve_eq_ite, declaredBits_a8,
    Variant.unpack_a8, Variant.pack_a8⟩
  · rw [exec_fmtA8, State.hostFormat_of_idle idle]
  · rw [exec_fmtA8, State.hostFormat_of_busy busy]

end Sys2Proof.Machine
end

section
/-! PROOF. The codes of the operations (R31, R80, R84). -/

namespace Sys2Proof.Machine

theorem decodeCode_encode (i : Instr) : decodeCode (encode i) = .ok i := by
  cases i <;> rfl

theorem eq_encode_of_decodeCode {c : CodeWord} {i : Instr} (h : decodeCode c = .ok i) :
    c = encode i := by
  cases c with
  | cmd v | fmt v | phase v =>
    simp only [decodeCode] at h
    repeat' split at h
    all_goals cases h
    all_goals
      subst_vars
      rfl

/-- R31: only the PHASE codes 8 to 15 are rejected as reserved. -/
theorem reservedPhase_of_decodeCode {c : CodeWord} {p : BitVec 4}
    (h : decodeCode c = .error (.reservedPhase p)) : c = .phase p ∧ 7 < p.toNat := by
  cases c with
  | cmd v | fmt v =>
    simp only [decodeCode] at h
    repeat' split at h
    all_goals cases h
  | phase q =>
    simp only [decodeCode] at h
    repeat' split at h
    all_goals cases h
    refine ⟨rfl, ?_⟩
    simp only [← BitVec.toNat_inj, BitVec.toNat_ofNat] at *
    omega

/-- Settles O1: the decoder inverts the encoder, and accepts nothing but its code words. -/
theorem codesAndOperationsAgree : Obligations.CodesAndOperationsAgree :=
  ⟨decodeCode_encode, fun _ _ => eq_encode_of_decodeCode⟩

/-- Settles O2: the ten words are closed, and the decoder computes. -/
theorem tableWordsDecode : Obligations.TableWordsDecode := by
  unfold Obligations.TableWordsDecode
  decide

end Sys2Proof.Machine
end

section
/-! PROOF. One byte of ACC (R33). -/

namespace Sys2Proof.Machine

theorem byteOf_getLsbD (v : Word) (k i : Nat) (hi : i < 8) :
    (byteOf v k).getLsbD i = v.getLsbD (8 * k + i) := by
  simp [byteOf, hi]

/-- The byte covers its own eight bits of ACC and no other bit. -/
theorem insertByte_getLsbD (acc : Word) (b : Byte) (j i : Nat) (hj : j < 4) (hi : i < 32) :
    (insertByte acc j b).getLsbD i =
      if 8 * j ≤ i ∧ i < 8 * j + 8 then b.getLsbD (i - 8 * j) else acc.getLsbD i := by
  unfold insertByte
  rcases (by omega : j = 0 ∨ j = 1 ∨ j = 2 ∨ j = 3) with rfl | rfl | rfl | rfl
  all_goals
    simp
    grind

/-- Settles O10, bit by bit: bit `i` of byte `k` lies in the bits that were replaced iff `k = j`. -/
theorem accumulatorTakesOneByte : Obligations.AccumulatorTakesOneByte := by
  unfold Obligations.AccumulatorTakesOneByte
  intro acc b j k hj hk
  ext i hi
  rw [← BitVec.getLsbD_eq_getElem, byteOf_getLsbD _ _ _ hi,
    insertByte_getLsbD _ _ _ _ hj (by omega)]
  by_cases same : k = j
  · subst same
    rw [if_pos (by omega), if_pos rfl, Nat.add_sub_cancel_left, BitVec.getLsbD_eq_getElem]
  · rw [if_neg (by omega), if_neg same, ← BitVec.getLsbD_eq_getElem, byteOf_getLsbD _ _ _ hi]

end Sys2Proof.Machine
end

section
/-! PROOF. The fields of STATUS (R30, R32) and the state after reset (R39). -/

namespace Sys2Proof.Machine

section
variable {n : Nat} (high : BitVec n) (dir err done busy : Bool)

/-- The four flags are the four lowest bits. -/
theorem flagBits_getLsbD :
    let w := high ++ BitVec.ofBool dir ++ BitVec.ofBool err ++ BitVec.ofBool done
      ++ BitVec.ofBool busy
    w.getLsbD 0 = busy ∧ w.getLsbD 1 = done ∧ w.getLsbD 2 = err ∧ w.getLsbD 3 = dir := by
  simp [BitVec.getElem_append]

theorem extractLsb'_above_flagBits (k len : Nat) :
    (high ++ BitVec.ofBool dir ++ BitVec.ofBool err ++ BitVec.ofBool done
      ++ BitVec.ofBool busy).extractLsb' (4 + k) len = high.extractLsb' k len := by
  rw [BitVec.extractLsb'_append_eq_of_le (by omega), BitVec.extractLsb'_append_eq_of_le (by omega),
    BitVec.extractLsb'_append_eq_of_le (by omega), BitVec.extractLsb'_append_eq_of_le (by omega)]
  congr 1
  omega

end

/-- Settles O29: the flags are read off the low bits, the fields above them by dropping what lies
below. -/
theorem statusWordLayout : Obligations.StatusWordLayout := by
  unfold Obligations.StatusWordLayout
  intro s
  obtain ⟨bit0, bit1, bit2, bit3⟩ :=
    flagBits_getLsbD (0#20 ++ s.phase ++ s.errcode) s.dir s.err s.done s.busy
  have above := extractLsb'_above_flagBits (0#20 ++ s.phase ++ s.errcode) s.dir s.err s.done s.busy
  refine ⟨bit0, bit1, bit2, bit3, (above 0 4).trans ?_, (above 4 4).trans ?_,
    (above 8 20).trans ?_, ?_⟩
  · exact BitVec.extractLsb'_append_eq_right
  · rw [BitVec.extractLsb'_append_eq_of_le (by omega)]
    exact BitVec.extractLsb'_append_eq_right
  · rw [BitVec.extractLsb'_append_eq_of_le (by omega),
      BitVec.extractLsb'_append_eq_of_le (by omega)]
    exact BitVec.extractLsb'_eq_self
  · exact Prod.ext bit0.symm (Prod.ext bit1.symm bit2.symm)

/-- R39: every register and counter of the table. -/
theorem State.reset_atReset : State.reset.AtReset :=
  ⟨by decide, by decide, by decide⟩

/-- Settles O32: the reset state is closed, and STATUS and the wires compute. -/
theorem resetState : Obligations.ResetState :=
  ⟨State.reset_atReset, by decide, by decide⟩

end Sys2Proof.Machine
end

section
/-! PROOF. The invariant (R38), phase by phase: what each phase asks of the state, and what a state
with the invariant in that phase gives back. -/

namespace Sys2Proof.Machine

theorem Error.code_toNat_le (e : Error) : e.code.toNat ≤ 7 := by
  cases e <;> decide

theorem Error.code_ne_zero (e : Error) : e.code ≠ 0#4 := by
  cases e <;> decide

theorem State.hasOutcome_iff (s : State) :
    s.hasOutcome = true ↔ s.phase ≠ Phase.idle ∨ s.done = true ∨ s.errcode ≠ 0#4 := by
  simp [State.hasOutcome, State.busy, State.err, or_assoc]

/-- What holds of every running block and of one that has just taken a command: no result stands in
the registers and `rst` is released. -/
structure State.Clear (s : State) : Prop where
  notDone : s.done = false
  noError : s.errcode = 0#4
  released : s.rst = false
  canonical : s.raster.wf

/-- Where an operation leads: a state with the invariant in which one of BUSY, DONE, ERR is 1. -/
structure State.Settled (s : State) : Prop where
  inv : s.Inv
  outcome : s.hasOutcome = true

/-- What the header steps have made sure of once field 6 has passed its checks (R132, R133, R139,
R140). -/
structure State.HeaderChecked (s : State) : Prop extends s.Clear where
  decodes : s.dir = false
  magic : s.magic = Config.magicWord
  format : resolve s.fmtid = some .a8
  pixbits : s.pixbits = 8#32
  payoff : 28 ≤ s.payoff.toNat

/-- What the block phases of the running operation need of the registers they do not write. -/
structure State.BlockReady (s : State) : Prop extends s.Clear where
  decoded : s.dir = false → s.magic = Config.magicWord ∧ s.pixbits = 8#32 ∧ 28 ≤ s.payoff.toNat

/-- `p` is one of the two block phases of the operation DIR names. -/
def State.BlockPhase (s : State) (p : BitVec 4) : Prop :=
  if s.dir then p = Phase.eGather ∨ p = Phase.eEmit else p = Phase.dFill ∨ p = Phase.dDrain

/-- In D_HDR when the fields of the first `k` header bytes have been checked. -/
structure State.HeaderRead (s : State) (k : Nat) : Prop extends s.Clear where
  phase : s.phase = Phase.dHdr
  decodes : s.dir = false
  magic : 4 ≤ k → s.magic = Config.magicWord
  format : 8 ≤ k → resolve s.fmtid = some .a8

section
variable {s : State}

theorem State.Inv.clear (inv : s.Inv) (busy : s.phase ≠ Phase.idle) : s.Clear where
  notDone := Bool.eq_false_iff.mpr fun h => busy (inv.doneMeans h).2
  noError := by_contra fun h => busy (inv.errMeans h).2
  released := Bool.eq_false_iff.mpr fun h => busy (inv.held h).result.1
  canonical := inv.canonical

/-- Every register at its reset value is an idle block with no result. -/
theorem State.AtReset.inv (reset : s.AtReset) (canonical : s.raster.wf) : s.Inv := by
  obtain ⟨phase, done, errcode, dir⟩ := reset.result
  constructor
  case held => exact fun _ => reset
  case canonical => exact canonical
  all_goals simp [phase, done, errcode, dir]

/-- The environment is free: only the canonical form of the raster is asked of it. -/
theorem State.Inv.withEnvironment (inv : s.Inv) {m : Memory} (canonical : m.wf)
    (source : List InAnswer) (sink : Sink) (turns : List Turn) (trace : List Event) :
    State.Inv { s with
      source := source, sink := sink, raster := m, turns := turns, trace := trace } :=
  { inv with
    inBlocks := fun p => { inv.inBlocks p with }
    held := fun r => { inv.held r with }
    canonical := canonical }

/-- The invariant says nothing of BLK, which is written before it is read (R37). -/
theorem State.Inv.withBlk (inv : s.Inv) (blk : Vector Byte 64) : State.Inv { s with blk := blk } :=
  { inv with
    inBlocks := fun p => { inv.inBlocks p with }
    held := fun r => { inv.held r with } }

/-- An idle block may take any image description (R117). -/
theorem State.Inv.withImage (inv : s.Inv) (idle : s.phase = Phase.idle) (released : s.rst = false)
    (fmtid width height : Word) :
    State.Inv { s with fmtid := fmtid, width := width, height := height } := by
  constructor
  case phaseLegal => exact inv.phaseLegal
  case errLegal => exact inv.errLegal
  case doneMeans => exact inv.doneMeans
  case errMeans => exact inv.errMeans
  case encodeErrors => exact inv.encodeErrors
  case freshDir => exact inv.freshDir
  case canonical => exact inv.canonical
  all_goals simp [idle, released]

/-- R250: the release of `rst`. -/
theorem State.Inv.withRstReleased (inv : s.Inv) : State.Inv { s with rst := false } :=
  { inv with
    inBlocks := fun p => { inv.inBlocks p with }
    held := fun r => nomatch r }

/-- R228, with the errors an ENCODE can raise (R220). -/
theorem State.Clear.raise_settled (clear : s.Clear) (e : Error)
    (encodeErrors : s.dir = true → e = .ioError ∨ e = .unsupportedFormat ∨
      e = .widthNotMultipleOf8 ∨ e = .heightNotMultipleOf8) : (s.raise e).Settled where
  outcome := (State.hasOutcome_iff _).mpr (.inr (.inr e.code_ne_zero))
  inv := by
    constructor
    case errLegal => exact e.code_toNat_le
    case canonical => exact clear.canonical
    case encodeErrors =>
      intro dir
      rcases encodeErrors dir with rfl | rfl | rfl | rfl <;> simp [Error.code]
    -- The other clauses speak of DONE = 1, of `rst`, or of phases the block is not in.
    all_goals simp [clear.notDone, clear.released, e.code_ne_zero]

/-- R122: DONE is the outcome. -/
theorem State.Clear.finish_settled (clear : s.Clear) : s.finish.Settled where
  outcome := (State.hasOutcome_iff _).mpr (.inr (.inl rfl))
  inv := by
    constructor
    case canonical => exact clear.canonical
    all_goals simp [clear.noError, clear.released]

/-- R38 item 4: D_HDR between two bytes of the header. -/
theorem State.HeaderRead.settled (read : s.HeaderRead s.hcnt.toNat)
    (count : s.hcnt.toNat ≤ 27) : s.Settled where
  outcome := (State.hasOutcome_iff s).mpr (.inl (by simp [read.phase]))
  inv := by
    constructor
    case headerCount => exact fun _ => count
    case magicRead => simpa [read.phase] using read.magic
    case formatRead => simpa [read.phase] using read.format
    case canonical => exact read.canonical
    all_goals simp [read.phase, read.decodes, read.notDone, read.noError, read.released]

/-- R38 item 5: D_PAD. -/
theorem State.HeaderChecked.padding_settled (checked : s.HeaderChecked)
    (phase : s.phase = Phase.dPad) (skip : 1 ≤ s.skip.toNat ∧ s.skip.toNat ≤ 0xFFFFFFE3) :
    s.Settled where
  outcome := (State.hasOutcome_iff s).mpr (.inl (by simp [phase]))
  inv := by
    constructor
    case skipRange => exact fun _ => skip
    case magicRead => exact fun _ => checked.magic
    case formatRead => exact fun _ => checked.format
    case headerRead => exact fun _ => ⟨checked.pixbits, checked.payoff⟩
    case canonical => exact checked.canonical
    all_goals simp [phase, checked.decodes, checked.notDone, checked.noError, checked.released]

/-- E_HDR: what ENCODE has checked (R112). -/
theorem State.Clear.encodeHeader_settled (clear : s.Clear) (phase : s.phase = Phase.eHdr)
    (encodes : s.dir = true) (format : resolve s.fmtid = some .a8)
    (dims : s.width.toNat % 8 = 0 ∧ s.height.toNat % 8 = 0) : s.Settled where
  outcome := (State.hasOutcome_iff s).mpr (.inl (by simp [phase]))
  inv := by
    constructor
    case formatRead => exact fun _ => format
    case encodeDims => exact fun _ => dims
    case canonical => exact clear.canonical
    all_goals simp [phase, encodes, clear.notDone, clear.noError, clear.released]

theorem State.BlockPhase.ne_idle {p : BitVec 4} (phase : s.BlockPhase p) : p ≠ Phase.idle := by
  unfold State.BlockPhase at phase
  split at phase
  all_goals rcases phase with rfl | rfl <;> decide

/-- R38 item 6: the four block phases. -/
theorem State.BlockReady.settled (ready : s.BlockReady) (phase : s.BlockPhase s.phase)
    (blocks : s.InBlocks) : s.Settled := by
  have clear := ready.toClear
  refine ⟨?_, (State.hasOutcome_iff s).mpr (.inl phase.ne_idle)⟩
  unfold State.BlockPhase at phase
  split at phase
  case isFalse decodes =>
    obtain ⟨magic, header⟩ := ready.decoded (by simpa using decodes)
    constructor
    case inBlocks => exact fun _ => blocks
    case magicRead => exact fun _ => magic
    case headerRead => exact fun _ => header
    case canonical => exact clear.canonical
    all_goals
      rcases phase with phase | phase <;>
        simp [phase, decodes, clear.notDone, clear.noError, clear.released]
  case isTrue encodes =>
    constructor
    case inBlocks => exact fun _ => blocks
    case canonical => exact clear.canonical
    all_goals
      rcases phase with phase | phase <;>
        simp [phase, encodes, clear.notDone, clear.noError, clear.released]

theorem State.HeaderChecked.blockReady (checked : s.HeaderChecked) : s.BlockReady where
  toClear := checked.toClear
  decoded := fun _ => ⟨checked.magic, checked.pixbits, checked.payoff⟩

/-- The block steps write none of the registers `BlockReady` speaks of. -/
theorem State.BlockReady.withCounters (ready : s.BlockReady) (bX bY : BitVec 29) (idx : BitVec 6)
    (p : BitVec 4) : State.BlockReady { s with bX := bX, bY := bY, idx := idx, phase := p } :=
  { ready with }

end

/-! ### What each phase tells of the state -/

section
variable {s : State}

theorem State.Inv.headerRead_of_dHdr (inv : s.Inv) (phase : s.phase = Phase.dHdr) :
    s.HeaderRead s.hcnt.toNat where
  toClear := inv.clear (by simp [phase])
  phase := phase
  decodes := inv.decodeDir (.inl phase)
  magic := fun read => inv.magicRead (.inl ⟨phase, read⟩)
  format := fun read => inv.formatRead (.inl ⟨phase, read⟩)

theorem State.Inv.headerChecked_of_dPad (inv : s.Inv) (phase : s.phase = Phase.dPad) :
    s.HeaderChecked where
  toClear := inv.clear (by simp [phase])
  decodes := inv.decodeDir (by simp [phase])
  magic := inv.magicRead (by simp [phase])
  format := inv.formatRead (by simp [phase])
  pixbits := (inv.headerRead (by simp [phase])).1
  payoff := (inv.headerRead (by simp [phase])).2

theorem State.Inv.blockPhase_of_decode (inv : s.Inv)
    (phase : s.phase = Phase.dFill ∨ s.phase = Phase.dDrain) {p : BitVec 4}
    (target : p = Phase.dFill ∨ p = Phase.dDrain) : s.BlockPhase p := by
  have decodes : s.dir = false := inv.decodeDir (.inr (.inr phase))
  simpa [State.BlockPhase, decodes] using target

theorem State.Inv.blockPhase_of_encode (inv : s.Inv)
    (phase : s.phase = Phase.eGather ∨ s.phase = Phase.eEmit) {p : BitVec 4}
    (target : p = Phase.eGather ∨ p = Phase.eEmit) : s.BlockPhase p := by
  have encodes : s.dir = true := inv.encodeDir (.inr phase)
  simpa [State.BlockPhase, encodes] using target

/-- In a block phase a DECODE is past its header, and the image has blocks (R38 item 6). -/
theorem State.Inv.blockReady (inv : s.Inv) (phase : s.BlockPhase s.phase) :
    s.BlockReady ∧ s.InBlocks := by
  have clear := inv.clear phase.ne_idle
  unfold State.BlockPhase at phase
  split at phase
  case isFalse decodes =>
    refine ⟨⟨clear, fun _ => ⟨inv.magicRead ?_, inv.headerRead ?_⟩⟩, inv.inBlocks ?_⟩
    all_goals tauto
  case isTrue encodes =>
    refine ⟨⟨clear, fun decodes => ?_⟩, inv.inBlocks ?_⟩
    · simp [encodes] at decodes
    · tauto

end

end Sys2Proof.Machine
end

section
/-! PROOF. The shared operations and the header parser lead to states with the invariant. -/

namespace Sys2Proof.Machine

section
variable {s : State}

/-! ### The shared operations -/

/-- R181: the block counters start inside an image whose dimensions are multiples of 8. -/
theorem State.BlockReady.startBlocks_settled (ready : s.BlockReady)
    (format : resolve s.fmtid = some .a8)
    (dims : s.width.toNat % 8 = 0 ∧ s.height.toNat % 8 = 0) {p : BitVec 4}
    (phase : s.BlockPhase p) : (s.startBlocks p).Settled := by
  rcases s.startBlocks_cases p with ⟨-, finish⟩ | ⟨width, height, start, bY⟩
  · rw [finish]
    exact ready.toClear.finish_settled
  · rw [start]
    refine (ready.withCounters _ _ _ _).settled phase ⟨dims.1, dims.2, ?_, ?_, format⟩
    · simpa using width
    · simp only [bY]
      omega

/-- R182: right, up to the row above, or the end. -/
theorem State.BlockReady.nextBlock_settled (ready : s.BlockReady) (blocks : s.InBlocks)
    {p : BitVec 4} (phase : s.BlockPhase p) : (s.nextBlock p).Settled := by
  rcases s.nextBlock_cases p with
    ⟨more, bX, right⟩ | ⟨-, more, bY, up⟩ | ⟨-, -, finish⟩
  · rw [right]
    refine (ready.withCounters _ _ _ _).settled phase { blocks with bxLt := ?_ }
    simpa only [bX] using more
  · rw [up]
    refine (ready.withCounters _ _ _ _).settled phase { blocks with bxLt := ?_, byLt := ?_ }
    · exact Nat.zero_lt_of_lt blocks.bxLt
    · have := blocks.byLt
      simp only [bY]
      omega
  · rw [finish]
    exact (ready.withCounters s.bX s.bY 0#6 s.phase).toClear.finish_settled

/-- R192, R210: the second phase of a block goes on, or the block ends. -/
theorem State.Inv.nextInDrain_settled (inv : s.Inv) (here : s.BlockPhase s.phase) {p : BitVec 4}
    (phase : s.BlockPhase p) : (s.nextInDrain p).Settled := by
  obtain ⟨ready, blocks⟩ := inv.blockReady here
  unfold State.nextInDrain
  split
  · exact (ready.withCounters _ _ _ _).settled here { blocks with }
  · exact ready.nextBlock_settled blocks phase

/-- R190, R205: the first phase of a block goes on, or hands over to the second. -/
theorem State.Inv.nextInBlock_settled (inv : s.Inv) (here : s.BlockPhase s.phase) {p : BitVec 4}
    (phase : s.BlockPhase p) : (s.nextInBlock p).Settled := by
  obtain ⟨ready, blocks⟩ := inv.blockReady here
  unfold State.nextInBlock
  split
  · exact (ready.withCounters _ _ _ _).settled here { blocks with }
  · exact (ready.withCounters _ _ _ _).settled phase { blocks with }

/-- R141: a dimension error, or the blocks of an image whose dimensions are multiples of 8. -/
theorem State.HeaderChecked.paddingComplete_settled (checked : s.HeaderChecked) :
    s.paddingComplete.Settled := by
  rcases s.paddingComplete_cases with ⟨-, raised⟩ | ⟨-, -, raised⟩ | ⟨width, height, start⟩
  · rw [raised]
    exact checked.raise_settled _ (by simp)
  · rw [raised]
    exact checked.raise_settled _ (by simp)
  · rw [start]
    refine checked.blockReady.startBlocks_settled checked.format ⟨width, height⟩ ?_
    simp [State.BlockPhase, checked.decodes]

/-! ### The header parser -/

/-- How a field rule may end when byte `k` of the header completes its field: with an error, or so
that D_HDR may go on to byte `k + 1`; byte 27 ends the header. -/
def Flow.Keeps (k : Nat) : Flow → Prop
  | .goesOn s => if k < 27 then s.HeaderRead (k + 1) else s.Settled
  | .raised s => s.Settled

/-- ACC and HCNT are not registers the checks have looked at. -/
theorem State.HeaderRead.withCounters {k : Nat} (read : s.HeaderRead k) (acc : Word)
    (hcnt : BitVec 7) : State.HeaderRead { s with acc := acc, hcnt := hcnt } k :=
  { read with }

theorem State.HeaderRead.goesOn_keeps {k : Nat} (read : s.HeaderRead (k + 1)) (more : k < 27) :
    (Flow.goesOn s).Keeps k := by
  rwa [Flow.Keeps, if_pos more]

/-- R131: HCNT counts the byte unless the header has ended. -/
theorem countHeaderByte_settled {k : BitVec 7} {f : Flow} (keeps : f.Keeps k.toNat) :
    (countHeaderByte k f).Settled := by
  cases f with
  | raised s => exact keeps
  | goesOn s =>
    by_cases more : k.toNat < 27
    · have count := hcnt_succ k (by omega)
      rw [Flow.Keeps, if_pos more, ← count] at keeps
      rw [countHeaderByte, if_pos more]
      exact (keeps.withCounters s.acc (k + 1#7)).settled (by simp only [count]; omega)
    · rw [Flow.Keeps, if_neg more] at keeps
      rwa [countHeaderByte, if_neg more]

/-- R132: past field 0 the magic is right. -/
theorem State.HeaderRead.fieldMagic_keeps (read : s.HeaderRead 3) (v : Word) :
    (fieldMagic v s).Keeps 3 := by
  unfold fieldMagic
  split
  · next magic =>
    refine State.HeaderRead.goesOn_keeps ?_ (by omega)
    exact { read with magic := fun _ => magic, format := by omega }
  · exact State.Clear.raise_settled (s := { s with magic := v }) { read with } .invalidHeader
      (by simp [read.decodes])

/-- R133: past field 1 the identifier resolves. -/
theorem State.HeaderRead.fieldFmtid_keeps (read : s.HeaderRead 7) (v : Word) :
    (fieldFmtid v s).Keeps 7 := by
  unfold fieldFmtid
  split
  · next variant resolves =>
    cases variant
    refine State.HeaderRead.goesOn_keeps ?_ (by omega)
    exact { read with magic := fun _ => read.magic (by omega), format := fun _ => resolves }
  · exact State.Clear.raise_settled (s := { s with fmtid := v }) { read with } .unsupportedFormat
      (by simp [read.decodes])

/-- R138 to R140: past field 6 the header has been checked whole. -/
theorem State.HeaderRead.fieldPayoff_keeps (read : s.HeaderRead 27) (v : Word) :
    (fieldPayoff v s).Keeps 27 := by
  have format := read.format (by omega)
  have bits : declaredBits s.fmtid = 8#32 := by
    rw [(resolve_some _ _).mp format, declaredBits_a8]
  have clear (skip : Word) (p : BitVec 4) :
      State.Clear { s with payoff := v, skip := skip, phase := p } := { read with }
  unfold fieldPayoff
  simp only [bits]
  split
  · exact (clear s.skip s.phase).raise_settled _ (by simp [read.decodes])
  · next pixbits =>
    split
    · exact (clear s.skip s.phase).raise_settled _ (by simp [read.decodes])
    · next payoff =>
      have payoff : 28 ≤ v.toNat := by simpa using payoff
      have checked (p : BitVec 4) : State.HeaderChecked
          { s with payoff := v, skip := v - Config.hdrFixed, phase := p } :=
        { clear _ p with
          decodes := read.decodes, magic := read.magic (by omega), format := format
          pixbits := by simpa using pixbits, payoff := payoff }
      split
      · exact (checked s.phase).paddingComplete_settled
      · next skip =>
        refine (checked Phase.dPad).padding_settled rfl ?_
        have := v.isLt
        simp only [← BitVec.toNat_inj, BitVec.toNat_sub, BitVec.toNat_ofNat] at skip ⊢
        omega

/-- R131 to R138: the last byte of a field. -/
theorem State.HeaderRead.completeField_keeps {k : Nat} (read : s.HeaderRead k) (last : k % 4 = 3)
    (count : k ≤ 27) (v : Word) : (completeField (k / 4) v s).Keeps k := by
  unfold completeField
  split
  · next field =>
    obtain rfl : k = 3 := by omega
    exact read.fieldMagic_keeps v
  split
  · next field =>
    obtain rfl : k = 7 := by omega
    exact read.fieldFmtid_keeps v
  have later : s.HeaderRead (k + 1) :=
    { read with magic := fun _ => read.magic (by omega), format := fun _ => read.format (by omega) }
  split
  · exact State.HeaderRead.goesOn_keeps { later with } (by omega)
  split
  · exact State.HeaderRead.goesOn_keeps { later with } (by omega)
  split
  · exact State.HeaderRead.goesOn_keeps { later with } (by omega)
  split
  · next field =>
    obtain rfl : k = 27 := by omega
    exact read.fieldPayoff_keeps v
  · exact later.goesOn_keeps (by omega)

/-- R131: the byte ends a field, or lies inside one and leaves the checks as they are. -/
theorem State.Inv.headerByteIn_settled (inv : s.Inv) (phase : s.phase = Phase.dHdr) (b : Byte) :
    (headerByteIn b s).Settled := by
  have count := inv.headerCount phase
  have read := (inv.headerRead_of_dHdr phase).withCounters
    (insertByte s.acc (s.hcnt.toNat % 4) b) s.hcnt
  unfold headerByteIn
  refine countHeaderByte_settled ?_
  split
  · next last => exact read.completeField_keeps last count _
  · next inside =>
    refine State.HeaderRead.goesOn_keeps ?_ (by omega)
    exact { read with
      magic := fun _ => read.magic (by omega), format := fun _ => read.format (by omega) }

/-- R143: SKIP counts down, and the padding ends at 0. -/
theorem State.Inv.paddingByteIn_settled (inv : s.Inv) (phase : s.phase = Phase.dPad) :
    (paddingByteIn s).Settled := by
  have checked : State.HeaderChecked { s with skip := s.skip - 1#32 } :=
    { inv.headerChecked_of_dPad phase with }
  unfold paddingByteIn
  simp only
  split
  · exact checked.paddingComplete_settled
  · next more =>
    refine checked.padding_settled phase ?_
    have := inv.skipRange phase
    simp only [← BitVec.toNat_inj, BitVec.toNat_sub, BitVec.toNat_ofNat] at more ⊢
    omega

end

end Sys2Proof.Machine
end

section
/-! PROOF. Every operation but NOP and FMT.A8 leads to a state with the invariant and an outcome. -/

namespace Sys2Proof.Machine

section
variable {s t : State}

/-- R111: a DECODE starts with no byte of the header read. -/
theorem State.startDecode_settled (released : s.rst = false) (canonical : s.raster.wf) :
    s.startDecode.Settled := by
  refine State.HeaderRead.settled ⟨⟨rfl, rfl, released, canonical⟩, rfl, rfl, ?_, ?_⟩ ?_
  all_goals simp [State.startDecode]

/-- R112: the checks in their order. -/
theorem State.startEncode_settled (released : s.rst = false) (canonical : s.raster.wf) :
    s.startEncode.Settled := by
  have clear : State.Clear { s with done := false, errcode := 0#4, dir := true } :=
    ⟨rfl, rfl, released, canonical⟩
  unfold State.startEncode
  simp only
  split
  · exact clear.raise_settled _ (by simp)
  · next resolves =>
    split
    · exact clear.raise_settled _ (by simp)
    · next width =>
      split
      · exact clear.raise_settled _ (by simp)
      · next height =>
        refine State.Clear.encodeHeader_settled { clear with } rfl rfl ?_ ⟨?_, ?_⟩
        · rw [Option.isNone_iff_eq_none, resolve_none, not_not] at resolves
          exact (resolve_some _ _).mpr resolves
        · simpa [multipleOf8_eq_false] using width
        · simpa [multipleOf8_eq_false] using height

/-- R161: the header goes on, or the blocks start. -/
theorem State.Inv.headerByteOut_settled (inv : s.Inv) (phase : s.phase = Phase.eHdr) :
    (headerByteOut s).Settled := by
  have clear := inv.clear (by simp [phase])
  have encodes := inv.encodeDir (.inl phase)
  have format := inv.formatRead (.inr (.inr phase))
  have dims := inv.encodeDims phase
  unfold headerByteOut
  split
  · exact State.Clear.encodeHeader_settled { clear with } phase encodes format dims
  · refine State.BlockReady.startBlocks_settled ⟨clear, ?_⟩ format dims ?_
    · simp [encodes]
    · simp [State.BlockPhase, encodes]

/-- A command that starts an operation, or is ignored because one runs (R111, R112, R114). -/
theorem State.Inv.exec_command_settled (inv : s.Inv) (released : s.rst = false) {i : Instr}
    (command : i = .decode ∨ i = .encode) (h : exec i s = .next t) : t.Settled := by
  have busy (running : s.phase ≠ Phase.idle) : s.Settled :=
    ⟨inv, s.hasOutcome_iff.mpr (.inl running)⟩
  rcases command with rfl | rfl
  · simp only [exec, execDecode] at h
    split at h
    · cases h
      exact State.startDecode_settled released inv.canonical
    · next running =>
      cases h
      exact busy running
  · simp only [exec, execEncode] at h
    split at h
    · cases h
      exact State.startEncode_settled released inv.canonical
    · next running =>
      cases h
      exact busy running

/-- R221: a transfer that failed ends a running operation. -/
theorem State.Inv.ioError_settled (inv : s.Inv) (busy : s.phase ≠ Phase.idle) :
    (s.raise .ioError).Settled :=
  (inv.clear busy).raise_settled .ioError (by simp)

/-- STEP.D_HDR (R131): a byte was received, or `Fail`. -/
theorem State.Inv.exec_dHdr_settled (inv : s.Inv) (phase : s.phase = Phase.dHdr)
    (h : exec .stepDHdr s = .next t) : t.Settled := by
  have env (source : List InAnswer) (trace : List Event) :=
    inv.withEnvironment inv.canonical source s.sink s.turns trace
  rcases exec_in_cases s with ⟨b, rest, -, ok, -, -⟩ | ⟨rest, -, fail, -, -⟩
  · cases ok.symm.trans h
    exact (env rest (.inByte b :: s.trace)).headerByteIn_settled phase b
  · cases fail.symm.trans h
    exact (env _ _).ioError_settled (by simp [phase])

/-- STEP.D_PAD (R143): a byte was received, or `Fail`. -/
theorem State.Inv.exec_dPad_settled (inv : s.Inv) (phase : s.phase = Phase.dPad)
    (h : exec .stepDPad s = .next t) : t.Settled := by
  have env (source : List InAnswer) (trace : List Event) :=
    inv.withEnvironment inv.canonical source s.sink s.turns trace
  rcases exec_in_cases s with ⟨b, rest, -, -, ok, -⟩ | ⟨rest, -, -, fail, -⟩
  · cases ok.symm.trans h
    exact (env rest (.inByte b :: s.trace)).paddingByteIn_settled phase
  · cases fail.symm.trans h
    exact (env _ _).ioError_settled (by simp [phase])

/-- STEP.D_FILL (R190): a byte was received, or `Fail`. -/
theorem State.Inv.exec_dFill_settled (inv : s.Inv) (phase : s.phase = Phase.dFill)
    (h : exec .stepDFill s = .next t) : t.Settled := by
  have env (source : List InAnswer) (trace : List Event) :=
    inv.withEnvironment inv.canonical source s.sink s.turns trace
  rcases exec_in_cases s with ⟨b, rest, -, -, -, ok⟩ | ⟨rest, -, -, -, fail⟩
  · cases ok.symm.trans h
    refine State.Inv.nextInBlock_settled ((env _ _).withBlk _) ?_ ?_
    · exact inv.blockPhase_of_decode (.inl phase) (.inl phase)
    · exact inv.blockPhase_of_decode (.inl phase) (.inr rfl)
  · cases fail.symm.trans h
    exact (env _ _).ioError_settled (by simp [phase])

/-- STEP.D_DRAIN (R192): one pixel is written. -/
theorem State.Inv.exec_dDrain_settled (inv : s.Inv) (phase : s.phase = Phase.dDrain)
    (h : exec .stepDDrain s = .next t) : t.Settled := by
  cases h
  have written (x y : Word) (px : Pixel) : (s.rasWrite x y px).Inv :=
    inv.withEnvironment (Memory.setPixel_wf _ x y px inv.canonical) _ _ _ _
  refine State.Inv.nextInDrain_settled (written _ _ _) ?_ ?_
  · exact inv.blockPhase_of_decode (.inr phase) (.inr phase)
  · exact inv.blockPhase_of_decode (.inr phase) (.inl rfl)

/-- STEP.E_HDR (R161): its byte was accepted, or `Fail`. -/
theorem State.Inv.exec_eHdr_settled (inv : s.Inv) (phase : s.phase = Phase.eHdr)
    (h : exec .stepEHdr s = .next t) : t.Settled := by
  have env (trace : List Event) :=
    inv.withEnvironment inv.canonical s.source (Sink.rest s.sink) s.turns trace
  rcases exec_eHdr_cases s with ⟨-, ok⟩ | ⟨-, fail⟩
  · cases ok.symm.trans h
    exact (env _).headerByteOut_settled phase
  · cases fail.symm.trans h
    exact (env _).ioError_settled (by simp [phase])

/-- STEP.E_GATHER (R205): one pixel is read. -/
theorem State.Inv.exec_eGather_settled (inv : s.Inv) (phase : s.phase = Phase.eGather)
    (h : exec .stepEGather s = .next t) : t.Settled := by
  cases h
  have read (x y : Word) : (s.rasRead x y).2.Inv :=
    inv.withEnvironment inv.canonical _ _ _ _
  refine State.Inv.nextInBlock_settled ((read _ _).withBlk _) ?_ ?_
  · exact inv.blockPhase_of_encode (.inl phase) (.inl phase)
  · exact inv.blockPhase_of_encode (.inl phase) (.inr rfl)

/-- STEP.E_EMIT (R210): its byte was accepted, or `Fail`. -/
theorem State.Inv.exec_eEmit_settled (inv : s.Inv) (phase : s.phase = Phase.eEmit)
    (h : exec .stepEEmit s = .next t) : t.Settled := by
  have env (trace : List Event) :=
    inv.withEnvironment inv.canonical s.source (Sink.rest s.sink) s.turns trace
  rcases exec_eEmit_cases s with ⟨-, ok⟩ | ⟨-, fail⟩
  · cases ok.symm.trans h
    refine State.Inv.nextInDrain_settled (env _) ?_ ?_
    · exact inv.blockPhase_of_encode (.inr phase) (.inr phase)
    · exact inv.blockPhase_of_encode (.inr phase) (.inl rfl)
  · cases fail.symm.trans h
    exact (env _).ioError_settled (by simp [phase])

/-- Every operation but NOP and FMT.A8 leads to a state with an outcome; a step of the sequencer is
taken in its own phase (R120). -/
theorem State.Inv.exec_settled (inv : s.Inv) (released : s.rst = false) {i : Instr}
    (phase : ∀ p, encode i = .phase p → s.phase = p) (notNop : i ≠ .nop) (notFormat : i ≠ .fmtA8)
    (h : exec i s = .next t) : t.Settled := by
  cases i with
  | nop => exact absurd rfl notNop
  | fmtA8 => exact absurd rfl notFormat
  | decode | encode => exact inv.exec_command_settled released (by simp) h
  | stepDHdr => exact inv.exec_dHdr_settled (phase _ rfl) h
  | stepDPad => exact inv.exec_dPad_settled (phase _ rfl) h
  | stepDFill => exact inv.exec_dFill_settled (phase _ rfl) h
  | stepDDrain => exact inv.exec_dDrain_settled (phase _ rfl) h
  | stepEHdr => exact inv.exec_eHdr_settled (phase _ rfl) h
  | stepEGather => exact inv.exec_eGather_settled (phase _ rfl) h
  | stepEEmit => exact inv.exec_eEmit_settled (phase _ rfl) h

end

end Sys2Proof.Machine
end

section
/-! PROOF. The agents' moves and the step: the invariant and the outcome over every step (R38). -/

namespace Sys2Proof.Machine

section
variable {s t : State}

/-- R117: the host's identifier is held by an idle block. -/
theorem State.Inv.hostFormat (inv : s.Inv) (released : s.rst = false) (id : Word) :
    (s.hostFormat id).Inv := by
  by_cases idle : s.phase = Phase.idle
  · rw [State.hostFormat_of_idle idle]
    exact inv.withImage idle released id s.width s.height
  · rwa [State.hostFormat_of_busy idle]

theorem State.hostFormat_hasOutcome (s : State) (id : Word) :
    (s.hostFormat id).hasOutcome = s.hasOutcome := by
  unfold State.hostFormat
  split <;> rfl

/-- R117: WIDTH and HEIGHT of an idle block are the host's. -/
theorem State.Inv.csrWriteData (inv : s.Inv) (released : s.rst = false) (off : Word)
    (size : AccessSize) (v : Word) : (s.csrWriteData off size v).Inv := by
  unfold State.csrWriteData
  split
  · next width => exact inv.withImage width.2.1 released s.fmtid v s.height
  split
  · next height => exact inv.withImage height.2.1 released s.fmtid s.width v
  · exact inv

theorem State.csrWriteData_hasOutcome (s : State) (off : Word) (size : AccessSize) (v : Word) :
    (s.csrWriteData off size v).hasOutcome = s.hasOutcome := by
  unfold State.csrWriteData
  split
  · rfl
  split <;> rfl

/-- R250, R251: the assertion of `rst` puts every register at its reset value. -/
theorem State.applyReset_atReset (s : State) : State.AtReset { s.applyReset with rst := true } :=
  ⟨⟨rfl, rfl, rfl, rfl, rfl, rfl⟩, ⟨rfl, rfl, rfl, rfl⟩, ⟨rfl, rfl, rfl, rfl, rfl, rfl⟩⟩

/-- A host action that runs no operation keeps the invariant, and the outcome unless it is the
assertion of `rst`. -/
theorem State.Inv.hostAct_keeps (inv : s.Inv) (a : HostAct) :
    (hostAct a s).Inv ∧ (a ≠ .rstAssert → (hostAct a s).hasOutcome = s.hasOutcome) := by
  have env (turns : List Turn) (trace : List Event) :=
    inv.withEnvironment inv.canonical s.source s.sink turns trace
  cases a with
  | csrRead off size => exact ⟨env _ _, fun _ => rfl⟩
  | csrWrite off size v =>
    simp only [hostAct]
    split
    · exact ⟨inv, fun _ => rfl⟩
    · next released =>
      exact ⟨inv.csrWriteData (by simpa using released) off size v,
        fun _ => s.csrWriteData_hasOutcome off size v⟩
  | rstAssert => exact ⟨s.applyReset_atReset.inv inv.canonical, fun other => absurd rfl other⟩
  | rstRelease => exact ⟨inv.withRstReleased, fun _ => rfl⟩
  | waitIdle =>
    simp only [hostAct]
    split
    · exact ⟨env _ _, fun _ => rfl⟩
    · exact ⟨env _ _, fun _ => rfl⟩

theorem State.Inv.agentAct_keeps (inv : s.Inv) (turn : Turn) :
    (agentAct turn s).Inv ∧
      (turn ≠ .host .rstAssert → (agentAct turn s).hasOutcome = s.hasOutcome) := by
  cases turn with
  | sequencer => exact ⟨inv, fun _ => rfl⟩
  | host a =>
    obtain ⟨kept, outcome⟩ := inv.hostAct_keeps a
    exact ⟨kept, fun other => outcome fun eq => other (by rw [eq])⟩
  | source answers => exact ⟨inv.withEnvironment inv.canonical answers _ _ _, fun _ => rfl⟩
  | sink k => exact ⟨inv.withEnvironment inv.canonical _ k _ _, fun _ => rfl⟩
  | raster x y px =>
    exact ⟨inv.withEnvironment (Memory.setPixel_wf _ x y px inv.canonical) _ _ _ _, fun _ => rfl⟩

theorem State.Inv.popTurn (inv : s.Inv) : s.popTurn.Inv :=
  inv.withEnvironment inv.canonical _ _ _ _

theorem State.popTurn_hasOutcome (s : State) : s.popTurn.hasOutcome = s.hasOutcome := rfl

theorem State.Inv.quietStep_keeps (inv : s.Inv) :
    (quietStep s).Inv ∧ (s.turns.head? ≠ some (.host .rstAssert) →
      (quietStep s).hasOutcome = s.hasOutcome) := by
  unfold quietStep
  split
  · exact ⟨inv, fun _ => rfl⟩
  · next turn rest moves =>
    obtain ⟨kept, outcome⟩ := inv.popTurn.agentAct_keeps turn
    exact ⟨kept, fun other => outcome fun eq => other (by rw [moves, eq]; rfl)⟩

/-- R250: the assertion of `rst` leaves no outcome. -/
theorem quietStep_rstAssert_hasOutcome (assert : s.turns.head? = some (.host .rstAssert)) :
    (quietStep s).hasOutcome = false := by
  obtain ⟨rest, moves⟩ : ∃ rest, s.turns = .host .rstAssert :: rest := by
    simpa [List.head?_eq_some_iff] using assert
  simp only [quietStep, moves]
  rfl

/-- A PHASE code runs in its own phase, and not in IDLE (R120). -/
theorem State.pending_phase (s : State) {p : BitVec 4} (pending : s.pending = some (.phase p)) :
    s.phase ≠ Phase.idle ∧ s.phase = p := by
  rcases (s.pending_some _ pending).2 with
    ⟨rest, -, busy, code⟩ | ⟨v, rest, -, code⟩ | ⟨v, rest, -, code⟩
  · cases code
    exact ⟨busy, rfl⟩
  · cases code
  · cases code

/-- Everything a step can do to the invariant and to the outcome: an operation of the sequencer or a
DECODE or ENCODE leads to an outcome, the assertion of `rst` to none, and every other move keeps what
stands. -/
theorem State.Inv.step_leads (inv : s.Inv) (h : step s = .next t) :
    (∃ i, s.pending = some (encode i) ∧ i ≠ .nop ∧ i ≠ .fmtA8 ∧ t.Settled) ∨
    (t.Inv ∧ t.hasOutcome = s.hasOutcome) ∨
    (t.Inv ∧ s.turns.head? = some (.host .rstAssert) ∧ t.hasOutcome = false) := by
  rcases step_cases s t h with
    ⟨-, rfl⟩ | ⟨c, i, pending, decodes, run⟩ | ⟨v, -, rfl⟩ | ⟨v, pending, rfl⟩
  · obtain ⟨kept, outcome⟩ := inv.quietStep_keeps
    by_cases assert : s.turns.head? = some (.host .rstAssert)
    · exact .inr (.inr ⟨kept, assert, quietStep_rstAssert_hasOutcome assert⟩)
    · exact .inr (.inl ⟨kept, outcome assert⟩)
  · obtain rfl := eq_encode_of_decodeCode decodes
    obtain ⟨released, -⟩ := s.pending_some _ pending
    by_cases nop : i = .nop
    · subst nop
      cases run
      exact .inr (.inl ⟨inv.popTurn, s.popTurn_hasOutcome⟩)
    by_cases format : i = .fmtA8
    · subst format
      cases run
      exact .inr (.inl ⟨inv.popTurn.hostFormat released _, s.popTurn.hostFormat_hasOutcome _⟩)
    refine .inl ⟨i, pending, nop, format, inv.popTurn.exec_settled released ?_ nop format run⟩
    intro p code
    rw [code] at pending
    exact (s.pending_phase pending).2
  · exact .inr (.inl ⟨inv.popTurn, s.popTurn_hasOutcome⟩)
  · obtain ⟨released, -⟩ := s.pending_some _ pending
    exact .inr (.inl ⟨inv.popTurn.hostFormat released v, s.popTurn.hostFormat_hasOutcome v⟩)

/-- With no outcome the block is idle, so the operation a step runs is a command of the host. -/
theorem State.pending_command (idle : s.phase = Phase.idle) {i : Instr}
    (pending : s.pending = some (encode i)) (notNop : i ≠ .nop) (notFormat : i ≠ .fmtA8) :
    s.turns.head? = some (.host (.csrWrite 0x20#32 .word 1#32)) ∨
      s.turns.head? = some (.host (.csrWrite 0x20#32 .word 2#32)) := by
  rcases (s.pending_some _ pending).2 with
    ⟨rest, -, busy, -⟩ | ⟨v, rest, moves, code⟩ | ⟨v, rest, -, code⟩
  · exact absurd idle busy
  · rw [moves]
    cases i with
    | nop => exact absurd rfl notNop
    | decode =>
      cases code
      exact .inl rfl
    | encode =>
      cases code
      exact .inr rfl
    | _ => cases code
  · cases i with
    | fmtA8 => exact absurd rfl notFormat
    | _ => cases code

end

/-- Settles O41: whatever a step does, it leads to a state with the invariant. -/
theorem invariantKeptByEveryStep : Obligations.InvariantKeptByEveryStep := by
  unfold Obligations.InvariantKeptByEveryStep
  intro s t inv h
  rcases inv.step_leads h with ⟨-, -, -, -, settled⟩ | ⟨kept, -⟩ | ⟨kept, -⟩
  · exact settled.inv
  · exact kept
  · exact kept

/-- Settles O42: every register has its reset value, whatever is attached. -/
theorem invariantAtReset : Obligations.InvariantAtReset := by
  unfold Obligations.InvariantAtReset
  intro turns source k m canonical
  exact State.AtReset.inv { State.reset_atReset with } canonical

/-- Settles O43: the one fault of the model asks for a PHASE above 7. -/
theorem stepNeverStops : Obligations.StepNeverStops := by
  unfold Obligations.StepNeverStops
  intro s inv
  unfold step
  split
  · exact ⟨_, rfl⟩
  · next c pending =>
    split
    · exact exec_is_next _ _
    · next e rejects =>
      cases e with
      | reservedPhase p =>
        obtain ⟨rfl, reserved⟩ := reservedPhase_of_decodeCode rejects
        rw [← (s.pending_phase pending).2] at reserved
        exact absurd inv.phaseLegal (by omega)
      | _ => exact ⟨_, rfl⟩

/-- Settles O45: the first two clauses are the invariant's, the others follow from where a step
leads. -/
theorem oneOutcomeFromFirstCommandOn : Obligations.OneOutcomeFromFirstCommandOn := by
  unfold Obligations.OneOutcomeFromFirstCommandOn
  intro s t inv h
  refine ⟨fun busy => ?_, fun done => ?_, fun outcome noAssert => ?_, fun none outcome => ?_⟩
  · have clear := inv.clear (by simpa [State.busy] using busy)
    exact ⟨clear.notDone, by simp [State.err, clear.noError]⟩
  · simp [State.err, (inv.doneMeans done).1]
  · rcases inv.step_leads h with ⟨-, -, -, -, settled⟩ | ⟨-, same⟩ | ⟨-, assert, -⟩
    · exact settled.outcome
    · exact same.trans outcome
    · exact absurd assert noAssert
  · rcases inv.step_leads h with ⟨i, pending, notNop, notFormat, -⟩ | ⟨-, same⟩ | ⟨-, -, gone⟩
    · have idle : s.phase = Phase.idle := by
        by_contra busy
        rw [s.hasOutcome_iff.mpr (.inl busy)] at none
        cases none
      exact State.pending_command idle pending notNop notFormat
    · rw [same, none] at outcome
      cases outcome
    · rw [gone] at outcome
      cases outcome

end Sys2Proof.Machine
end

section
/-! PROOF. The values of STATUS (95_test_vectors.md). -/

namespace Sys2Proof.Machine

/-- STATUS as a function of the four fields it is formed from (R30). -/
def statusWord (phase errcode : BitVec 4) (dir done : Bool) : Word :=
  0#20 ++ phase ++ errcode ++ BitVec.ofBool dir ++ BitVec.ofBool (errcode != 0#4)
    ++ BitVec.ofBool done ++ BitVec.ofBool (phase != Phase.idle)

theorem State.status_eq_statusWord (s : State) :
    s.status = statusWord s.phase s.errcode s.dir s.done := rfl

/-- The table of 95_test_vectors.md. -/
def statusTable : List Word :=
  [0x00000000#32, 0x00000101#32, 0x00000201#32, 0x00000301#32, 0x00000401#32, 0x00000509#32,
   0x00000609#32, 0x00000709#32, 0x00000002#32, 0x0000000A#32, 0x00000014#32, 0x00000024#32,
   0x00000034#32, 0x00000044#32, 0x00000054#32, 0x00000064#32, 0x00000074#32, 0x0000001C#32,
   0x0000003C#32, 0x0000006C#32, 0x0000007C#32]

/-- The values of a running block: its phase fixes DIR. -/
theorem statusWord_running : ∀ p : BitVec 4, p ≠ Phase.idle → p.toNat ≤ 7 →
    statusWord p 0#4 (decide (4 < p.toNat)) false ∈ statusTable := by decide

/-- The values of a block that has taken an error. -/
theorem statusWord_error : ∀ (e : BitVec 4) (dir : Bool), e ≠ 0#4 → e.toNat ≤ 7 →
    (dir = true → e = 0#4 ∨ e = 1#4 ∨ e = 3#4 ∨ e = 6#4 ∨ e = 7#4) →
    statusWord Phase.idle e dir false ∈ statusTable := by decide

theorem statusWord_done : ∀ dir : Bool, statusWord Phase.idle 0#4 dir true ∈ statusTable := by
  decide

theorem State.Inv.dir_of_running {s : State} (inv : s.Inv) (busy : s.phase ≠ Phase.idle) :
    s.dir = decide (4 < s.phase.toNat) := by
  have legal := inv.phaseLegal
  have decodes := inv.decodeDir
  have encodes := inv.encodeDir
  have running : s.phase.toNat ≠ 0 := fun zero => busy (BitVec.eq_of_toNat_eq zero)
  simp only [← BitVec.toNat_inj, BitVec.toNat_ofNat] at decodes encodes
  by_cases h : 4 < s.phase.toNat
  · simpa [h] using encodes (by omega)
  · simpa [h] using decodes (by omega)

/-- Settles O44: running, ended by an error, ended well, or fresh. -/
theorem onlyTheseStatusValues : Obligations.OnlyTheseStatusValues := by
  unfold Obligations.OnlyTheseStatusValues
  intro s inv
  change s.status ∈ statusTable
  rw [s.status_eq_statusWord]
  by_cases busy : s.phase ≠ Phase.idle
  · have clear := inv.clear busy
    rw [clear.noError, clear.notDone, inv.dir_of_running busy]
    exact statusWord_running _ busy inv.phaseLegal
  have idle := not_not.mp busy
  rw [idle]
  by_cases err : s.errcode ≠ 0#4
  · rw [(inv.errMeans err).1]
    exact statusWord_error _ _ err inv.errLegal inv.encodeErrors
  have noError := not_not.mp err
  rw [noError]
  cases done : s.done with
  | true => exact statusWord_done _
  | false =>
    rw [inv.freshDir idle done noError]
    decide

end Sys2Proof.Machine
end

section
/-! PROOF. What ENCODE and its steps leave unchanged (R112, R164). -/

namespace Sys2Proof.Machine

/-- The header registers, the byte source and the raster. -/
def State.image (s : State) :
    Word × Word × Word × Word × Word × Word × List InAnswer × Memory :=
  (s.magic, s.fmtid, s.width, s.height, s.pixbits, s.payoff, s.source, s.raster)

section
variable (s : State)

theorem State.startBlocks_image (p : BitVec 4) : (s.startBlocks p).image = s.image := by
  rcases s.startBlocks_cases p with ⟨-, finish⟩ | ⟨-, -, start, -⟩
  · rw [finish]; rfl
  · rw [start]; rfl

theorem State.nextBlock_image (p : BitVec 4) : (s.nextBlock p).image = s.image := by
  rcases s.nextBlock_cases p with ⟨-, -, right⟩ | ⟨-, -, -, up⟩ | ⟨-, -, finish⟩
  · rw [right]; rfl
  · rw [up]; rfl
  · rw [finish]; rfl

theorem State.nextInBlock_image (p : BitVec 4) : (s.nextInBlock p).image = s.image := by
  unfold State.nextInBlock
  split <;> rfl

theorem State.nextInDrain_image (p : BitVec 4) : (s.nextInDrain p).image = s.image := by
  unfold State.nextInDrain
  split
  · rfl
  · exact s.nextBlock_image p

theorem headerByteOut_image : (headerByteOut s).image = s.image := by
  unfold headerByteOut
  split
  · rfl
  · exact s.startBlocks_image _

/-- R112: each check ends in an error or lets the next one decide. -/
theorem State.startEncode_image : s.startEncode.image = s.image := by
  unfold State.startEncode
  simp only
  split
  · rfl
  split
  · rfl
  split <;> rfl

theorem exec_encode_image {t : State} (h : exec .encode s = .next t) : t.image = s.image := by
  simp only [exec, execEncode] at h
  split at h
  · cases h
    exact s.startEncode_image
  · cases h
    rfl

theorem exec_eHdr_image {t : State} (h : exec .stepEHdr s = .next t) : t.image = s.image := by
  rcases exec_eHdr_cases s with ⟨-, ok⟩ | ⟨-, fail⟩
  · cases ok.symm.trans h
    exact headerByteOut_image _
  · cases fail.symm.trans h
    rfl

theorem exec_eGather_image {t : State} (h : exec .stepEGather s = .next t) :
    t.image = s.image := by
  cases h
  exact State.nextInBlock_image _ _

theorem exec_eEmit_image {t : State} (h : exec .stepEEmit s = .next t) : t.image = s.image := by
  rcases exec_eEmit_cases s with ⟨-, ok⟩ | ⟨-, fail⟩
  · cases ok.symm.trans h
    exact State.nextInDrain_image _ _
  · cases fail.symm.trans h
    rfl

end

/-- Settles O51: none of the four operations writes a part of the image. -/
theorem encodeKeepsRegistersAndRaster : Obligations.EncodeKeepsRegistersAndRaster := by
  unfold Obligations.EncodeKeepsRegistersAndRaster
  intro i s t encodes h
  have same : t.image = s.image := by
    rcases encodes with rfl | rfl | rfl | rfl
    · exact exec_encode_image s h
    · exact exec_eHdr_image s h
    · exact exec_eGather_image s h
    · exact exec_eEmit_image s h
  simp only [State.image, Prod.mk.injEq] at same
  obtain ⟨magic, fmtid, width, height, pixbits, payoff, source, raster⟩ := same
  exact ⟨magic, fmtid, width, height, pixbits, payoff, source, fun a => by rw [raster]⟩

end Sys2Proof.Machine
end

section
/-! PROOF. The raster: a pixel read after a pixel write (R56, R58). -/

namespace Sys2Proof.Machine

/-- Each channel of the written pixel. -/
theorem Memory.pixel_setPixel_same (m : Memory) (x y : Word) (px : Pixel) :
    (m.setPixel x y px).pixel x y = px := by
  simp [Memory.pixel, Memory.read_setPixel, rasAddr_inj]

/-- No channel of another pixel has one of the four addresses of the written one. -/
theorem Memory.pixel_setPixel_ne (m : Memory) {x y x' y' : Word} (px : Pixel)
    (other : ¬(x' = x ∧ y' = y)) : (m.setPixel x y px).pixel x' y' = m.pixel x' y' := by
  have unwritten (c c' : Nat) (hc : c < 4) (hc' : c' < 4) :
      rasAddr x' y' c ≠ rasAddr x y c' := fun same =>
    have ⟨sameX, sameY, _⟩ := (rasAddr_inj x' y' x y c c' hc hc').mp same
    other ⟨sameX, sameY⟩
  simp [Memory.pixel, Memory.read_setPixel, unwritten]

/-- Settles O22: the coordinates are those of the written pixel, or not. -/
theorem pixelWriteReadsBack : Obligations.PixelWriteReadsBack := by
  unfold Obligations.PixelWriteReadsBack
  intro m x y x' y' px
  split
  case isTrue same =>
    obtain ⟨rfl, rfl⟩ := same
    exact m.pixel_setPixel_same x' y' px
  case isFalse other => exact m.pixel_setPixel_ne px other

end Sys2Proof.Machine
end

section
/-! PROOF. The payload positions of the pixels of an image (R57, R86, R180, R183). -/

namespace Sys2Proof.Machine

/-! ### A coordinate is a block number and an offset in the block (R180) -/

theorem coord_toNat (b : BitVec 29) (d : BitVec 3) : (coord b d).toNat = 8 * b.toNat + d.toNat := by
  rw [coord, BitVec.toNat_append, ← Nat.shiftLeft_add_eq_or_of_lt d.isLt, Nat.shiftLeft_eq]
  omega

theorem div8_coord (b : BitVec 29) (d : BitVec 3) : div8 (coord b d) = b :=
  BitVec.extractLsb'_append_eq_left

theorem coord_offset (b : BitVec 29) (d : BitVec 3) : (coord b d).extractLsb' 0 3 = d :=
  BitVec.extractLsb'_append_eq_right

theorem coord_div8 (x : Word) : coord (div8 x) (x.extractLsb' 0 3) = x := by
  apply BitVec.eq_of_toNat_eq
  rw [coord_toNat, div8_toNat, BitVec.extractLsb'_toNat]
  omega

/-- A coordinate is inside an edge of a multiple of 8 iff its block is. -/
theorem coord_lt_iff {n : Nat} (mult : n % 8 = 0) (b : BitVec 29) (d : BitVec 3) :
    (coord b d).toNat < n ↔ b.toNat < n / 8 := by
  rw [coord_toNat]
  omega

/-! ### The traversal index and its inverse (R177) -/

theorem travIndex_traversal : ∀ i : BitVec 6, travIndex (traversal i).1 (traversal i).2 = i := by
  decide

theorem traversal_travIndex : ∀ dx dy : BitVec 3, traversal (travIndex dx dy) = (dx, dy) := by
  decide

/-- Every coordinate pair is the pixel of an index of a block. -/
theorem exists_pixelAt (x y : Word) : ∃ bx by' i, pixelAt bx by' i = (x, y) := by
  refine ⟨div8 x, div8 y, travIndex (x.extractLsb' 0 3) (y.extractLsb' 0 3), ?_⟩
  rw [pixelAt, traversal_travIndex, coord_div8, coord_div8]

/-! ### The number of a block in file order (R86, R179) -/

section
variable {w h : Word} {bx by' : BitVec 29}

/-- The block rows count down from the top row of the image. -/
theorem groupOf_eq (w h : Word) (bx by' : BitVec 29) :
    groupOf w h bx by' = (h.toNat / 8 - 1 - by'.toNat) * (w.toNat / 8) + bx.toNat := by
  rw [groupOf, div8_toNat, div8_toNat]

theorem groupOf_lt (hx : bx.toNat < w.toNat / 8) (hy : by'.toNat < h.toNat / 8) :
    groupOf w h bx by' < h.toNat / 8 * (w.toNat / 8) := by
  rw [groupOf_eq]
  calc (h.toNat / 8 - 1 - by'.toNat) * (w.toNat / 8) + bx.toNat
    _ < (h.toNat / 8 - 1 - by'.toNat + 1) * (w.toNat / 8) := by rw [Nat.succ_mul]; omega
    _ ≤ h.toNat / 8 * (w.toNat / 8) := Nat.mul_le_mul_right _ (by omega)

/-- The number gives back the column and the row, by its remainder and its quotient. -/
theorem groupOf_mod_div (hx : bx.toNat < w.toNat / 8) :
    groupOf w h bx by' % (w.toNat / 8) = bx.toNat ∧
      groupOf w h bx by' / (w.toNat / 8) = h.toNat / 8 - 1 - by'.toNat := by
  rw [groupOf_eq]
  constructor
  · rw [Nat.mul_add_mod', Nat.mod_eq_of_lt hx]
  · rw [Nat.add_comm, Nat.add_mul_div_right _ _ (by omega), Nat.div_eq_of_lt hx, Nat.zero_add]

theorem groupOf_inj {bx' by'' : BitVec 29} (hx : bx.toNat < w.toNat / 8)
    (hy : by'.toNat < h.toNat / 8) (hx' : bx'.toNat < w.toNat / 8) (hy' : by''.toNat < h.toNat / 8)
    (same : groupOf w h bx by' = groupOf w h bx' by'') : bx = bx' ∧ by' = by'' := by
  obtain ⟨column, row⟩ := groupOf_mod_div (h := h) (by' := by') hx
  obtain ⟨column', row'⟩ := groupOf_mod_div (h := h) (by' := by'') hx'
  rw [← same] at column' row'
  exact ⟨BitVec.eq_of_toNat_eq (by omega), BitVec.eq_of_toNat_eq (by omega)⟩

/-- A block of every column and of every row, the rows counted from the top. -/
theorem exists_block {column row : Nat} (hx : column < w.toNat / 8) (hy : row < h.toNat / 8) :
    ∃ bx by' : BitVec 29, bx.toNat < w.toNat / 8 ∧ by'.toNat < h.toNat / 8 ∧
      groupOf w h bx by' = row * (w.toNat / 8) + column := by
  have := w.isLt
  have := h.isLt
  refine ⟨BitVec.ofNatLT column (by omega),
    BitVec.ofNatLT (h.toNat / 8 - 1 - row) (by omega), hx, ?_, ?_⟩
  · rw [BitVec.toNat_ofNatLT]
    omega
  · rw [groupOf_eq, BitVec.toNat_ofNatLT, BitVec.toNat_ofNatLT, Nat.sub_sub_self (by omega)]

theorem exists_groupOf {g : Nat} (hg : g < h.toNat / 8 * (w.toNat / 8)) :
    ∃ bx by' : BitVec 29, bx.toNat < w.toNat / 8 ∧ by'.toNat < h.toNat / 8 ∧
      groupOf w h bx by' = g := by
  have wide : 0 < w.toNat / 8 := Nat.pos_of_mul_pos_left (Nat.zero_lt_of_lt hg)
  have number : g / (w.toNat / 8) * (w.toNat / 8) + g % (w.toNat / 8) = g := Nat.div_add_mod' ..
  obtain ⟨bx, by', column, row, group⟩ :=
    exists_block (w := w) (h := h) (Nat.mod_lt g wide) ((Nat.div_lt_iff_lt_mul wide).mpr hg)
  exact ⟨bx, by', column, row, group.trans number⟩

end

/-! ### The position of a pixel -/

section
variable {w h : Word} (hw : w.toNat % 8 = 0) (hh : h.toNat % 8 = 0)

/-- R183: index `i` of the block number `g` is byte `64·g + i` of the payload. -/
theorem payloadPos_pixelAt (w h : Word) (bx by' : BitVec 29) (i : BitVec 6) :
    payloadPos w h (pixelAt bx by' i).1 (pixelAt bx by' i).2 =
      64 * groupOf w h bx by' + i.toNat := by
  simp only [payloadPos, groupOf, pixelAt, div8_coord, coord_offset, travIndex_traversal]

include hw hh

/-- R57: the pixels of the image are the pixels of its blocks. -/
theorem pixelAt_inside_iff (bx by' : BitVec 29) (i : BitVec 6) :
    ((pixelAt bx by' i).1.toNat < w.toNat ∧ (pixelAt bx by' i).2.toNat < h.toNat) ↔
      bx.toNat < w.toNat / 8 ∧ by'.toNat < h.toNat / 8 :=
  and_congr (coord_lt_iff hw _ _) (coord_lt_iff hh _ _)

theorem exists_pixelAt_inside {x y : Word} (hx : x.toNat < w.toNat) (hy : y.toNat < h.toNat) :
    ∃ bx by' i, pixelAt bx by' i = (x, y) ∧ bx.toNat < w.toNat / 8 ∧ by'.toNat < h.toNat / 8 ∧
      payloadPos w h x y = 64 * groupOf w h bx by' + i.toNat := by
  obtain ⟨bx, by', i, pixel⟩ := exists_pixelAt x y
  have position := payloadPos_pixelAt w h bx by' i
  have inside := pixelAt_inside_iff hw hh bx by' i
  rw [pixel] at position inside
  obtain ⟨column, row⟩ := inside.mp ⟨hx, hy⟩
  exact ⟨bx, by', i, pixel, column, row, position⟩

theorem pixels_eq_blocks : w.toNat * h.toNat = 64 * (h.toNat / 8 * (w.toNat / 8)) := by
  obtain ⟨m, wide⟩ := Nat.dvd_of_mod_eq_zero hw
  obtain ⟨n, high⟩ := Nat.dvd_of_mod_eq_zero hh
  rw [wide, high, Nat.mul_div_cancel_left _ (by omega), Nat.mul_div_cancel_left _ (by omega)]
  ring

theorem payloadPos_lt {x y : Word} (hx : x.toNat < w.toNat) (hy : y.toNat < h.toNat) :
    payloadPos w h x y < w.toNat * h.toNat := by
  obtain ⟨bx, by', i, -, column, row, position⟩ := exists_pixelAt_inside hw hh hx hy
  have := groupOf_lt column row
  have := i.isLt
  rw [position, pixels_eq_blocks hw hh]
  omega

theorem payloadPos_inj {x y x' y' : Word} (hx : x.toNat < w.toNat) (hy : y.toNat < h.toNat)
    (hx' : x'.toNat < w.toNat) (hy' : y'.toNat < h.toNat)
    (same : payloadPos w h x y = payloadPos w h x' y') : x = x' ∧ y = y' := by
  obtain ⟨bx, by1, i, pixel, column, row, position⟩ := exists_pixelAt_inside hw hh hx hy
  obtain ⟨bx', by2, i', pixel', column', row', position'⟩ := exists_pixelAt_inside hw hh hx' hy'
  have := i.isLt
  have := i'.isLt
  obtain ⟨rfl, rfl⟩ := groupOf_inj (w := w) (h := h) column row column' row' (by omega)
  obtain rfl : i = i' := BitVec.eq_of_toNat_eq (by omega)
  exact Prod.mk.inj (pixel.symm.trans pixel')

/-- Number `k` is index `k mod 64` of the block number `k / 64`. -/
theorem exists_payloadPos {k : Nat} (hk : k < w.toNat * h.toNat) :
    ∃ x y : Word, x.toNat < w.toNat ∧ y.toNat < h.toNat ∧ payloadPos w h x y = k := by
  rw [pixels_eq_blocks hw hh] at hk
  obtain ⟨bx, by', column, row, group⟩ := exists_groupOf (w := w) (h := h) (g := k / 64) (by omega)
  obtain ⟨hx, hy⟩ := (pixelAt_inside_iff hw hh bx by' (BitVec.ofNat 6 (k % 64))).mpr ⟨column, row⟩
  refine ⟨_, _, hx, hy, ?_⟩
  rw [payloadPos_pixelAt, group, BitVec.toNat_ofNat]
  omega

end

/-- Settles O40: a pixel is an index of a block, and the blocks are numbered row by row. -/
theorem payloadPositionIsABijection : Obligations.PayloadPositionIsABijection := by
  unfold Obligations.PayloadPositionIsABijection
  intro w h hw hh
  refine ⟨fun bx by' i column row => ?_, fun x y => payloadPos_lt hw hh,
    fun x y x' y' => payloadPos_inj hw hh, fun k => exists_payloadPos hw hh⟩
  obtain ⟨hx, hy⟩ := (pixelAt_inside_iff hw hh bx by' i).mpr ⟨column, row⟩
  exact ⟨coord_toNat _ _, coord_toNat _ _, hx, hy,
    (payloadPos_pixelAt w h bx by' i).trans (by rw [groupOf_eq])⟩

end Sys2Proof.Machine
end

section
/-! PROOF. Each step of the sequencer is one transfer (R66, R120). -/

namespace Sys2Proof.Machine

/-! ### What follows a transfer adds nothing to the record -/

section
variable (s : State)

theorem State.startBlocks_trace (p : BitVec 4) : (s.startBlocks p).trace = s.trace := by
  rcases s.startBlocks_cases p with ⟨-, finish⟩ | ⟨-, -, start, -⟩
  · rw [finish]; rfl
  · rw [start]

theorem State.nextBlock_trace (p : BitVec 4) : (s.nextBlock p).trace = s.trace := by
  rcases s.nextBlock_cases p with ⟨-, -, right⟩ | ⟨-, -, -, up⟩ | ⟨-, -, finish⟩
  · rw [right]
  · rw [up]
  · rw [finish]

theorem State.nextInBlock_trace (p : BitVec 4) : (s.nextInBlock p).trace = s.trace := by
  unfold State.nextInBlock
  split <;> rfl

theorem State.nextInDrain_trace (p : BitVec 4) : (s.nextInDrain p).trace = s.trace := by
  unfold State.nextInDrain
  split
  · rfl
  · exact s.nextBlock_trace p

theorem State.paddingComplete_trace : s.paddingComplete.trace = s.trace := by
  rcases s.paddingComplete_cases with ⟨-, width⟩ | ⟨-, -, height⟩ | ⟨-, -, start⟩
  · rw [width]; rfl
  · rw [height]; rfl
  · rw [start]; exact s.startBlocks_trace _

theorem paddingByteIn_trace : (paddingByteIn s).trace = s.trace := by
  unfold paddingByteIn
  simp only
  split
  · exact State.paddingComplete_trace _
  · rfl

theorem headerByteOut_trace : (headerByteOut s).trace = s.trace := by
  unfold headerByteOut
  split
  · rfl
  · exact s.startBlocks_trace _

theorem fieldMagic_trace (v : Word) : (fieldMagic v s).state.trace = s.trace := by
  unfold fieldMagic
  split <;> rfl

theorem fieldFmtid_trace (v : Word) : (fieldFmtid v s).state.trace = s.trace := by
  unfold fieldFmtid
  split <;> rfl

theorem fieldPayoff_trace (v : Word) : (fieldPayoff v s).state.trace = s.trace := by
  unfold fieldPayoff
  simp only
  split
  · rfl
  split
  · rfl
  split
  · exact State.paddingComplete_trace _
  · rfl

theorem completeField_trace (n : Nat) (v : Word) :
    (completeField n v s).state.trace = s.trace := by
  unfold completeField
  split
  · exact fieldMagic_trace s v
  split
  · exact fieldFmtid_trace s v
  iterate 3
    split
    · rfl
  split
  · exact fieldPayoff_trace s v
  · rfl

theorem countHeaderByte_trace (k : BitVec 7) (f : Flow) :
    (countHeaderByte k f).trace = f.state.trace := by
  cases f with
  | goesOn s =>
    simp only [countHeaderByte]
    split <;> rfl
  | raised s => rfl

theorem headerByteIn_trace (b : Byte) : (headerByteIn b s).trace = s.trace := by
  unfold headerByteIn
  simp only [countHeaderByte_trace]
  split
  · exact completeField_trace _ _ _
  · rfl

end

/-! ### The transfer of each step kind -/

/-- Whether an event is a transfer on the port the step kind uses; the host's operations use none. -/
def isTransferOf : Instr → Event → Bool
  | .stepDHdr | .stepDPad | .stepDFill => Event.isIn
  | .stepDDrain => Event.isRasWrite
  | .stepEHdr | .stepEEmit => Event.isOut
  | .stepEGather => Event.isRasRead
  | .nop | .decode | .encode | .fmtA8 => fun _ => false

/-- From `s` to `t` the record grows by exactly one event, a transfer on the port `i` uses. -/
def State.OneTransferTo (i : Instr) (s t : State) : Prop :=
  ∃ e : Event, t.trace = e :: s.trace ∧ isTransferOf i e = true

section
variable {s t : State}

/-- The three steps that take a byte (R131, R143, R190). -/
theorem exec_in_oneTransfer {i : Instr} (takes : i = .stepDHdr ∨ i = .stepDPad ∨ i = .stepDFill)
    (h : exec i s = .next t) : s.OneTransferTo i t := by
  rcases exec_in_cases s with ⟨b, rest, -, hdr, pad, fill⟩ | ⟨rest, -, hdr, pad, fill⟩
  · rcases takes with rfl | rfl | rfl
    · cases hdr.symm.trans h
      exact ⟨_, headerByteIn_trace _ b, rfl⟩
    · cases pad.symm.trans h
      exact ⟨_, paddingByteIn_trace _, rfl⟩
    · cases fill.symm.trans h
      exact ⟨_, State.nextInBlock_trace _ _, rfl⟩
  · rcases takes with rfl | rfl | rfl
    · cases hdr.symm.trans h
      exact ⟨_, rfl, rfl⟩
    · cases pad.symm.trans h
      exact ⟨_, rfl, rfl⟩
    · cases fill.symm.trans h
      exact ⟨_, rfl, rfl⟩

theorem exec_dDrain_oneTransfer (h : exec .stepDDrain s = .next t) :
    s.OneTransferTo .stepDDrain t := by
  cases h
  exact ⟨_, State.nextInDrain_trace _ _, rfl⟩

theorem exec_eHdr_oneTransfer (h : exec .stepEHdr s = .next t) : s.OneTransferTo .stepEHdr t := by
  rcases exec_eHdr_cases s with ⟨-, ok⟩ | ⟨-, fail⟩
  · cases ok.symm.trans h
    exact ⟨_, headerByteOut_trace _, rfl⟩
  · cases fail.symm.trans h
    exact ⟨_, rfl, rfl⟩

theorem exec_eGather_oneTransfer (h : exec .stepEGather s = .next t) :
    s.OneTransferTo .stepEGather t := by
  cases h
  exact ⟨_, State.nextInBlock_trace _ _, rfl⟩

theorem exec_eEmit_oneTransfer (h : exec .stepEEmit s = .next t) :
    s.OneTransferTo .stepEEmit t := by
  rcases exec_eEmit_cases s with ⟨-, ok⟩ | ⟨-, fail⟩
  · cases ok.symm.trans h
    exact ⟨_, State.nextInDrain_trace _ _, rfl⟩
  · cases fail.symm.trans h
    exact ⟨_, rfl, rfl⟩

/-- Every operation with a PHASE code makes one transfer, on the port it uses. -/
theorem exec_oneTransfer {i : Instr} {p : BitVec 4} (code : encode i = .phase p)
    (h : exec i s = .next t) : s.OneTransferTo i t := by
  cases i with
  | nop | decode | encode | fmtA8 => cases code
  | stepDHdr => exact exec_in_oneTransfer (.inl rfl) h
  | stepDPad => exact exec_in_oneTransfer (.inr (.inl rfl)) h
  | stepDFill => exact exec_in_oneTransfer (.inr (.inr rfl)) h
  | stepDDrain => exact exec_dDrain_oneTransfer h
  | stepEHdr => exact exec_eHdr_oneTransfer h
  | stepEGather => exact exec_eGather_oneTransfer h
  | stepEEmit => exact exec_eEmit_oneTransfer h

/-- R120: the sequencer's move in a running block runs the operation of its PHASE code. -/
theorem step_sequencer_cases {rest : List Turn} (moves : s.turns = .sequencer :: rest)
    (released : s.rst = false) (busy : s.phase ≠ Phase.idle) (h : step s = .next t) :
    ∃ i, encode i = .phase s.phase ∧ exec i s.popTurn = .next t := by
  have phaseCode : s.pending = some (.phase s.phase) := by
    simp [State.pending, moves, released, busy]
  rcases step_cases s t h with
    ⟨none, -⟩ | ⟨c, i, pending, decodes, run⟩ | ⟨v, pending, -⟩ | ⟨v, pending, -⟩
  · cases phaseCode.symm.trans none
  · cases phaseCode.symm.trans pending
    exact ⟨i, (eq_encode_of_decodeCode decodes).symm, run⟩
  · cases phaseCode.symm.trans pending
  · cases phaseCode.symm.trans pending

end

/-- Settles O48: the operation of the PHASE code makes one transfer, and the code tells its port. -/
theorem oneTransferPerSequencerStep : Obligations.OneTransferPerSequencerStep := by
  unfold Obligations.OneTransferPerSequencerStep
  intro s t rest moves released busy h
  obtain ⟨i, code, run⟩ := step_sequencer_cases moves released busy h
  obtain ⟨e, seen, port⟩ := exec_oneTransfer code run
  refine ⟨e, seen, ?_⟩
  cases i with
  | nop | decode | encode | fmtA8 => cases code
  | _ =>
    rw [← CodeWord.phase.inj code]
    simpa [isTransferOf] using port

end Sys2Proof.Machine
end

section
/-! PROOF. Moves that are not the sequencer's, and moves of an idle block (R53, R67, R70, R114,
R117, R120, R229). -/

namespace Sys2Proof.Machine

section
variable {s t : State}

/-- The codes a host write carries stand for the host's own operations. -/
theorem hostInstr_of_encode {i : Instr} (notPhase : ∀ p, encode i ≠ .phase p) :
    i = .nop ∨ i = .decode ∨ i = .encode ∨ i = .fmtA8 := by
  cases i with
  | nop | decode | encode | fmtA8 => simp
  | _ => exact absurd rfl (notPhase _)

/-- With PHASE = IDLE or another agent to move, the next code word is not a PHASE code. -/
theorem State.pending_ne_phase (off : s.phase = Phase.idle ∨ s.turns.head? ≠ some .sequencer)
    (p : BitVec 4) : s.pending ≠ some (.phase p) := by
  intro pending
  rcases (s.pending_some _ pending).2 with
    ⟨rest, moves, busy, -⟩ | ⟨v, rest, -, code⟩ | ⟨v, rest, -, code⟩
  · rcases off with idle | notSequencer
    · exact busy idle
    · exact notSequencer (by rw [moves]; rfl)
  · cases code
  · cases code

/-- What an operation of the host does: nothing, or an idle block takes it (R110 to R112, R117). -/
theorem exec_host_cases {i : Instr} (host : i = .nop ∨ i = .decode ∨ i = .encode ∨ i = .fmtA8)
    (h : exec i s = .next t) :
    t = s ∨ (s.phase = Phase.idle ∧
      (t = s.startDecode ∨ t = s.startEncode ∨ t = s.hostFormat 8#32)) := by
  rcases host with rfl | rfl | rfl | rfl
  · cases h
    exact .inl rfl
  · simp only [exec, execDecode] at h
    split at h
    case isTrue idle =>
      cases h
      exact .inr ⟨idle, .inl rfl⟩
    case isFalse =>
      cases h
      exact .inl rfl
  · simp only [exec, execEncode] at h
    split at h
    case isTrue idle =>
      cases h
      exact .inr ⟨idle, .inr (.inl rfl)⟩
    case isFalse =>
      cases h
      exact .inl rfl
  · cases h
    by_cases idle : s.phase = Phase.idle
    · exact .inr ⟨idle, .inr (.inr rfl)⟩
    · exact .inl (State.hostFormat_of_busy idle _)

/-- Everything a step can do that is not the sequencer's: what the agent does, a write to the CSR
space without effect, or an idle block takes a command or an identifier. -/
theorem step_off_sequencer_cases
    (off : s.phase = Phase.idle ∨ s.turns.head? ≠ some .sequencer) (h : step s = .next t) :
    t = quietStep s ∨ t = s.popTurn ∨ (s.phase = Phase.idle ∧
      (t = s.popTurn.startDecode ∨ t = s.popTurn.startEncode ∨
        ∃ v, t = s.popTurn.hostFormat v)) := by
  rcases step_cases s t h with
    ⟨-, quiet⟩ | ⟨c, i, pending, decodes, run⟩ | ⟨v, -, ignored⟩ | ⟨v, -, format⟩
  · exact .inl quiet
  · obtain rfl := eq_encode_of_decodeCode decodes
    have host := hostInstr_of_encode fun p code => State.pending_ne_phase off p (code ▸ pending)
    rcases exec_host_cases host run with same | ⟨idle, start | start | format⟩
    · exact .inr (.inl same)
    · exact .inr (.inr ⟨idle, .inl start⟩)
    · exact .inr (.inr ⟨idle, .inr (.inl start)⟩)
    · exact .inr (.inr ⟨idle, .inr (.inr ⟨_, format⟩)⟩)
  · exact .inr (.inl ignored)
  · by_cases idle : s.phase = Phase.idle
    · exact .inr (.inr ⟨idle, .inr (.inr ⟨v, format⟩)⟩)
    · exact .inr (.inl (format.trans (State.hostFormat_of_busy (s := s.popTurn) idle v)))

end

/-! ### What the ports show -/

/-- From `s` to `t` the record grows by events that are no transfers. -/
def State.NoTransferTo (s t : State) : Prop :=
  ∃ new : List Event, t.trace = new ++ s.trace ∧ ∀ e ∈ new, Event.isTransfer e = false

section
variable {s t : State}

theorem State.noTransferTo_of_trace_eq (same : t.trace = s.trace) : s.NoTransferTo t :=
  ⟨[], same, by simp⟩

/-- A host CSR read is no transfer (R66). -/
theorem State.noTransferTo_of_csrRead {off v : Word} (seen : t.trace = .csrRead off v :: s.trace) :
    s.NoTransferTo t :=
  ⟨[.csrRead off v], seen, by simp [Event.isTransfer]⟩

theorem State.startEncode_trace (s : State) : s.startEncode.trace = s.trace := by
  unfold State.startEncode
  simp only
  split
  · rfl
  split
  · rfl
  split <;> rfl

theorem State.hostFormat_trace (s : State) (v : Word) : (s.hostFormat v).trace = s.trace := by
  unfold State.hostFormat
  split <;> rfl

theorem State.csrWriteData_trace (s : State) (off : Word) (size : AccessSize) (v : Word) :
    (s.csrWriteData off size v).trace = s.trace := by
  unfold State.csrWriteData
  split
  · rfl
  split <;> rfl

/-- The host sees what it reads: by `RD`, and by `WAIT`, which reads STATUS (R97). -/
theorem State.noTransferTo_hostAct (s : State) (a : HostAct) : s.NoTransferTo (hostAct a s) := by
  cases a with
  | csrRead off size => exact State.noTransferTo_of_csrRead rfl
  | csrWrite off size v =>
    refine State.noTransferTo_of_trace_eq ?_
    simp only [hostAct]
    split
    · rfl
    · exact s.csrWriteData_trace off size v
  | rstAssert | rstRelease => exact State.noTransferTo_of_trace_eq rfl
  | waitIdle =>
    simp only [hostAct]
    split
    · exact State.noTransferTo_of_csrRead rfl
    · exact State.noTransferTo_of_csrRead rfl

theorem State.noTransferTo_quietStep (s : State) : s.NoTransferTo (quietStep s) := by
  unfold quietStep
  split
  · exact State.noTransferTo_of_trace_eq rfl
  · next turn rest moves =>
    cases turn with
    | host a => exact s.popTurn.noTransferTo_hostAct a
    | _ => exact State.noTransferTo_of_trace_eq rfl

end

/-- Settles O49: the agents add at most a CSR read, and a command that is taken adds nothing. -/
theorem noTransferWithoutTheSequencer : Obligations.NoTransferWithoutTheSequencer := by
  unfold Obligations.NoTransferWithoutTheSequencer
  intro s t off h
  change s.NoTransferTo t
  rcases step_off_sequencer_cases off h with rfl | rfl | ⟨-, rfl | rfl | ⟨v, rfl⟩⟩
  · exact s.noTransferTo_quietStep
  · exact State.noTransferTo_of_trace_eq rfl
  · exact State.noTransferTo_of_trace_eq rfl
  · exact State.noTransferTo_of_trace_eq s.popTurn.startEncode_trace
  · exact State.noTransferTo_of_trace_eq (s.popTurn.hostFormat_trace v)

/-! ### What the host can change of a running block -/

/-- R117: WIDTH and HEIGHT of a running block are not the host's. -/
theorem State.csrWriteData_of_busy {s : State} (busy : s.phase ≠ Phase.idle) (off : Word)
    (size : AccessSize) (v : Word) : s.csrWriteData off size v = s := by
  rw [State.csrWriteData, if_neg fun width => busy width.2.1, if_neg fun height => busy height.2.1]

/-- R114, R117: of a running block a host action other than the assertion of `rst` changes the moves
to come, the record and the wire `rst` at most. -/
theorem hostAct_of_busy {s : State} (busy : s.phase ≠ Phase.idle) {a : HostAct}
    (other : a ≠ .rstAssert) :
    hostAct a s = { s with
      turns := (hostAct a s).turns, trace := (hostAct a s).trace, rst := (hostAct a s).rst } := by
  cases a with
  | csrRead | rstRelease => rfl
  | csrWrite off size v =>
    have same : hostAct (.csrWrite off size v) s = s := by
      simp only [hostAct, State.csrWriteData_of_busy busy, ite_self]
    rw [same]
  | rstAssert => exact absurd rfl other
  | waitIdle =>
    simp only [hostAct]
    split <;> rfl

/-- Settles O50: a running block takes no command, so the step is the host's own act or nothing. -/
theorem hostCannotDisturbARunningOperation : Obligations.HostCannotDisturbARunningOperation := by
  unfold Obligations.HostCannotDisturbARunningOperation
  intro s t a rest busy moves other h
  have off : s.turns.head? ≠ some .sequencer := by simp [moves]
  rcases step_off_sequencer_cases (.inr off) h with rfl | rfl | ⟨idle, -⟩
  · have act : quietStep s = hostAct a s.popTurn := by simp only [quietStep, moves, agentAct]
    rw [act]
    exact hostAct_of_busy (s := s.popTurn) busy other
  · rfl
  · exact absurd idle busy

end Sys2Proof.Machine
end

section
/-! PROOF. The header bytes ENCODE writes (R93, R162). -/

namespace Sys2Proof.Machine

/-- The four bytes of a field in stream order (R82). -/
def fieldBytes (v : Word) : List Byte := [byteOf v 0, byteOf v 1, byteOf v 2, byteOf v 3]

/-- R162: byte `j` of field `n` is header byte `4·n + j`. -/
theorem headerByte_of_field (id w h : Word) (n : Nat) {j : Nat} (hj : j < 4) :
    headerByte id w h (4 * n + j) = byteOf (headerField id w h n) j := by
  rw [headerByte, Nat.mul_add_div (by omega), Nat.div_eq_of_lt hj, Nat.add_zero, Nat.mul_add_mod,
    Nat.mod_eq_of_lt hj]

theorem range_mul_four (n : Nat) :
    List.range (4 * n) =
      (List.range n).flatMap fun i => [4 * i, 4 * i + 1, 4 * i + 2, 4 * i + 3] := by
  induction n with
  | zero => rfl
  | succ n ih =>
    rw [List.range_succ, List.flatMap_append, ← ih, List.flatMap_singleton, Nat.mul_succ]
    simp only [List.range_succ, List.append_assoc, List.cons_append, List.nil_append]

/-- The header is the bytes of its 32 fields, one field after the other. -/
theorem canonicalHeader_eq_fields (id w h : Word) :
    canonicalHeader id w h = ((List.range 32).map (headerField id w h)).flatMap fieldBytes := by
  rw [canonicalHeader, range_mul_four 32, List.map_flatMap, List.flatMap_map]
  congr 1
  funext n
  simp only [List.map_cons, List.map_nil, fieldBytes, ← headerByte_of_field id w h n,
    Nat.lt_add_one, Nat.reduceLT, Nat.add_zero]

/-- The seven fields in front of the padding, for format 8. -/
theorem headerField_a8 (w h : Word) :
    (List.range 7).map (headerField 8#32 w h) =
      [Config.magicWord, 8#32, w, h, 8#32, 0#32, Config.hdrCanon] := by
  simp [List.range_succ, headerField, declaredBits_a8]

/-- R12: the fields from 7 on are padding. -/
theorem headerField_padding (id w h : Word) (n : Nat) : headerField id w h (7 + n) = 0#32 := by
  unfold headerField
  iterate 7 rw [if_neg (by omega)]

/-- The fields for format 8: seven that carry a value, then 25 words of padding. -/
theorem headerFields_a8 (w h : Word) :
    (List.range 32).map (headerField 8#32 w h) =
      [Config.magicWord, 8#32, w, h, 8#32, 0#32, Config.hdrCanon] ++ List.replicate 25 0#32 := by
  have padding : headerField 8#32 w h ∘ (7 + ·) = fun _ => 0#32 :=
    funext fun n => headerField_padding 8#32 w h n
  rw [List.range_add (n := 7) (m := 25), List.map_append, headerField_a8, List.map_map, padding,
    List.map_const', List.length_range]

/-- Settles O24: the bytes of the fields, the padding's by themselves. -/
theorem headerBytesOfEncode : Obligations.HeaderBytesOfEncode := by
  unfold Obligations.HeaderBytesOfEncode
  intro w h
  have padding : (List.replicate 25 0#32).flatMap fieldBytes = List.replicate 100 0 := by decide
  rw [canonicalHeader_eq_fields, headerFields_a8, List.flatMap_append, padding]
  rfl

end Sys2Proof.Machine
end

section
/-! PROOF. The traversal index in bits (R89, R176, R177). -/

namespace Sys2Proof.Machine

/-- R176: the low bit of a selector moves right, a clear high bit moves up. -/
theorem offsetAt_bits (size : BitVec 3) (sel : BitVec 2) :
    offsetAt size sel.toNat =
      (if sel.getLsbD 0 then size else 0#3, if (~~~sel).getLsbD 1 then size else 0#3) := by
  obtain rfl | rfl | rfl | rfl : sel = 0#2 ∨ sel = 1#2 ∨ sel = 2#2 ∨ sel = 3#2 := by bv_omega
  all_goals rfl

/-- R89: the three selectors are the pairs of bits of the index. -/
theorem traversal_selectors (i : BitVec 6) :
    i.toNat / 16 = (i.extractLsb' 4 2).toNat ∧ i.toNat / 4 % 4 = (i.extractLsb' 2 2).toNat ∧
      i.toNat % 4 = (i.extractLsb' 0 2).toNat := by
  simp only [BitVec.extractLsb'_toNat, Nat.shiftRight_eq_div_pow, Nat.reducePow, true_and]
  omega

/-- The offsets 4, 2 and 1 have no bit in common: each bit of the sum chooses one of them. -/
theorem offset_sum_bits (b2 b1 b0 : BitVec 1) :
    (if b2.getLsbD 0 then 4#3 else 0#3) + (if b1.getLsbD 0 then 2#3 else 0#3)
      + (if b0.getLsbD 0 then 1#3 else 0#3) = b2 ++ b1 ++ b0 := by
  revert b2 b1 b0
  decide

/-- R89: each selector gives one bit of `dx` and one bit of `dy`. -/
theorem traversal_bits (i : BitVec 6) :
    traversal i =
      (i.extractLsb' 4 1 ++ i.extractLsb' 2 1 ++ i.extractLsb' 0 1,
        ~~~(i.extractLsb' 5 1 ++ i.extractLsb' 3 1 ++ i.extractLsb' 1 1)) := by
  obtain ⟨outer, middle, inner⟩ := traversal_selectors i
  rw [BitVec.not_append, BitVec.not_append, ← offset_sum_bits, ← offset_sum_bits]
  simp only [traversal, outer, middle, inner, offsetAt_bits]
  simp

/-- Settles O39: the bit form of T, and the two inverse laws. -/
theorem traversalIsABijection : Obligations.TraversalIsABijection :=
  ⟨traversal_bits, travIndex_traversal, traversal_travIndex⟩

end Sys2Proof.Machine
end

section
/-! PROOF. What a step runs for each source of a code word (R110 to R113, R117, R120), and the steps
of an idle block. -/

namespace Sys2Proof.Machine

section
variable {s : State} {rest : List Turn}

/-! ### The code word at hand, and the step that has it -/

theorem State.popTurn_of_turns {turn : Turn} (moves : s.turns = turn :: rest) :
    s.popTurn = { s with turns := rest } := by
  rw [State.popTurn, moves, List.tail_cons]

theorem step_of_pending {c : CodeWord} {i : Instr} (pending : s.pending = some c)
    (decodes : decodeCode c = .ok i) : step s = exec i s.popTurn := by
  simp only [step, pending, decodes]

theorem step_of_undecoded {c : CodeWord} {e : DecodeError} (pending : s.pending = some c)
    (rejects : decodeCode c = .error e) : step s = undecoded e s.popTurn := by
  simp only [step, pending, rejects]

theorem step_of_no_code (none : s.pending = none) : step s = .next (quietStep s) := by
  simp only [step, none]

theorem State.pending_asserted (asserted : s.rst = true) : s.pending = none := if_pos asserted

theorem State.pending_sequencer (released : s.rst = false) (busy : s.phase ≠ Phase.idle)
    (moves : s.turns = .sequencer :: rest) : s.pending = some (.phase s.phase) := by
  simp [State.pending, moves, released, busy]

theorem State.pending_csrWrite (released : s.rst = false) {off v : Word} {size : AccessSize}
    (moves : s.turns = .host (.csrWrite off size v) :: rest) : s.pending = csrCode off size v := by
  simp [State.pending, moves, released]

theorem quietStep_of_turns {turn : Turn} (moves : s.turns = turn :: rest) :
    quietStep s = agentAct turn { s with turns := rest } := by
  rw [← State.popTurn_of_turns moves, quietStep, moves]

/-- R120: PHASE code 0 is no step kind. -/
theorem phase_ne_idle_of_decodeCode {p : BitVec 4} {i : Instr}
    (decodes : decodeCode (.phase p) = .ok i) : p ≠ Phase.idle := by
  rintro rfl
  cases decodes

end

/-- Settles O3: the code word at hand is the one of the move's source. -/
theorem stepRunsTheDecodedOperation : Obligations.StepRunsTheDecodedOperation := by
  unfold Obligations.StepRunsTheDecodedOperation
  intro s i rest released
  refine ⟨fun moves decodes => ?_, fun v moves decodes => ?_, fun v moves decodes => ?_⟩
  all_goals rw [← State.popTurn_of_turns moves]
  · exact step_of_pending
      (State.pending_sequencer released (phase_ne_idle_of_decodeCode decodes) moves) decodes
  · exact step_of_pending (State.pending_csrWrite released moves) decodes
  · exact step_of_pending (State.pending_csrWrite released moves) decodes

/-- Settles O4: there is no code word at hand, and the sequencer's own act is nothing. -/
theorem idleBlockTakesNoStep : Obligations.IdleBlockTakesNoStep := by
  unfold Obligations.IdleBlockTakesNoStep
  intro s rest
  refine ⟨fun idle moves => ?_, fun moves => ?_⟩
  · have noCode : s.pending = none := by simp [State.pending, moves, idle]
    rw [step_of_no_code noCode, quietStep_of_turns moves, agentAct]
  · have noCode : s.pending = none := by simp [State.pending, moves]
    rw [step_of_no_code noCode, quietStep, moves]

/-! ### The host's commands -/

/-- Settles O5: NOP is the identity on states. -/
theorem nopChangesNothing : Obligations.NopChangesNothing := fun _ => rfl

/-- Settles O7: the command splits on whether the block is idle. -/
theorem decodeCommandStartsParsing : Obligations.DecodeCommandStartsParsing := by
  unfold Obligations.DecodeCommandStartsParsing
  intro s
  refine ⟨fun idle => ?_, fun busy => ?_⟩
  · rw [exec, execDecode, if_pos idle]
    rfl
  · rw [exec, execDecode, if_neg busy]

/-- R112: the checks as conditions on numbers, in their order. -/
theorem State.startEncode_eq (s : State) :
    s.startEncode =
      if s.fmtid ≠ 8#32 then
        { s with done := false, errcode := 3#4, dir := true, phase := Phase.idle }
      else if s.width.toNat % 8 ≠ 0 then
        { s with done := false, errcode := 6#4, dir := true, phase := Phase.idle }
      else if s.height.toNat % 8 ≠ 0 then
        { s with done := false, errcode := 7#4, dir := true, phase := Phase.idle }
      else
        { s with
          done := false, errcode := 0#4, dir := true, hcnt := 0#7, phase := Phase.eHdr } := by
  unfold State.startEncode
  simp only [Option.isNone_iff_eq_none, resolve_none, Bool.not_eq_true', multipleOf8_eq_false]
  rfl

/-- Settles O8: the command splits on whether the block is idle, then on the checks. -/
theorem encodeCommandChecksThenStarts : Obligations.EncodeCommandChecksThenStarts := by
  unfold Obligations.EncodeCommandChecksThenStarts
  intro s
  refine ⟨fun busy => ?_, fun idle => ?_⟩
  · rw [exec, execEncode, if_neg busy]
  · rw [exec, execEncode, if_pos idle, State.startEncode_eq]

end Sys2Proof.Machine
end

section
/-! PROOF. The host's reads and writes of the CSR space (R113, R116, R117). -/

namespace Sys2Proof.Machine

section
variable {s : State} {rest : List Turn} {off v : Word} {size : AccessSize}

theorem step_csrRead (moves : s.turns = .host (.csrRead off size) :: rest) :
    step s = .next
      { s with turns := rest, trace := .csrRead off (s.csrRead off size) :: s.trace } := by
  have noCode : s.pending = none := by simp [State.pending, moves]
  rw [step_of_no_code noCode, quietStep_of_turns moves]
  rfl

/-- R250: a write has no effect while `rst` is asserted. -/
theorem step_csrWrite_asserted (asserted : s.rst = true)
    (moves : s.turns = .host (.csrWrite off size v) :: rest) :
    step s = .next { s with turns := rest } := by
  rw [step_of_no_code (State.pending_asserted asserted), quietStep_of_turns moves, agentAct,
    hostAct, if_pos asserted]

/-- R117: a write to CMD of a command value, or of a reserved one. -/
theorem step_csrWrite_cmd (released : s.rst = false)
    (moves : s.turns = .host (.csrWrite 0x20#32 .word v) :: rest) :
    step s =
      if v = 0#32 then exec .nop { s with turns := rest }
      else if v = 1#32 then exec .decode { s with turns := rest }
      else if v = 2#32 then exec .encode { s with turns := rest }
      else .next { s with turns := rest } := by
  have code : s.pending = some (.cmd v) := State.pending_csrWrite released moves
  simp only [step, code, decodeCode, State.popTurn_of_turns moves]
  split_ifs <;> rfl

/-- R117: a write to FMTID, of an identifier that resolves or of another. -/
theorem step_csrWrite_fmtid (released : s.rst = false)
    (moves : s.turns = .host (.csrWrite 0x04#32 .word v) :: rest) :
    step s = .next (State.hostFormat { s with turns := rest } v) := by
  have code : s.pending = some (.fmt v) := State.pending_csrWrite released moves
  rw [← State.popTurn_of_turns moves]
  by_cases known : v = 8#32
  · subst known
    exact step_of_pending code rfl
  · exact step_of_undecoded code (if_neg known)

/-- A write that carries no code word. -/
theorem step_csrWrite_data (released : s.rst = false)
    (moves : s.turns = .host (.csrWrite off size v) :: rest) (data : csrCode off size v = none) :
    step s = .next (State.csrWriteData { s with turns := rest } off size v) := by
  rw [step_of_no_code ((State.pending_csrWrite released moves).trans data),
    quietStep_of_turns moves, agentAct, hostAct, if_neg (by simp [released])]

end

/-- Settles O6: the value decodes to no command, and under `rst` no write has an effect. -/
theorem reservedCommandChangesNothing : Obligations.ReservedCommandChangesNothing := by
  unfold Obligations.ReservedCommandChangesNothing
  intro s v rest not0 not1 not2 moves
  by_cases asserted : s.rst = true
  · exact step_csrWrite_asserted asserted moves
  · rw [step_csrWrite_cmd (by simpa using asserted) moves, if_neg not0, if_neg not1, if_neg not2]

/-- Settles O30: the value is the one `State.csrRead` selects by the offset. -/
theorem csrReadTable : Obligations.CsrReadTable := by
  unfold Obligations.CsrReadTable
  intro s off size rest moves
  refine ⟨s.csrRead off size, step_csrRead moves, ?_, ?_⟩
  · rintro rfl
    refine ⟨?_, ?_, ?_, ?_, ?_, ?_, ?_, ?_, ?_, ?_⟩
    all_goals
      rintro rfl
      rfl
  · intro undefined
    by_cases word : size = .word
    · have outside (n : Nat) (small : n < 0x28) (aligned : n % 4 = 0) :
          off ≠ BitVec.ofNat 32 n := by
        rintro rfl
        rw [BitVec.toNat_ofNat] at undefined
        rcases undefined with narrow | past | odd
        · exact narrow word
        · omega
        · omega
      rw [State.csrRead, if_neg (not_not.mpr word), if_neg (outside 0x00 (by omega) rfl),
        if_neg (outside 0x04 (by omega) rfl), if_neg (outside 0x08 (by omega) rfl),
        if_neg (outside 0x0C (by omega) rfl), if_neg (outside 0x10 (by omega) rfl),
        if_neg (outside 0x18 (by omega) rfl), if_neg (outside 0x24 (by omega) rfl)]
    · rw [State.csrRead, if_pos word]

/-- Settles O31: a narrow write, a write to CMD, to FMTID, or one that carries no code word. -/
theorem csrWriteRule : Obligations.CsrWriteRule := by
  unfold Obligations.CsrWriteRule
  intro s off v size rest released moves s1
  by_cases narrow : size ≠ .word
  · rw [if_pos narrow, step_csrWrite_data released moves (by simp [csrCode, narrow]),
      State.csrWriteData, if_neg fun width => narrow width.1, if_neg fun height => narrow height.1]
  obtain rfl := not_not.mp narrow
  rw [if_neg narrow]
  by_cases cmd : off = 0x20#32
  · subst cmd
    rw [if_pos rfl]
    exact step_csrWrite_cmd released moves
  rw [if_neg cmd]
  by_cases fmtid : off = 0x04#32
  · subst fmtid
    rw [step_csrWrite_fmtid released moves]
    by_cases idle : s.phase = Phase.idle
    · rw [if_pos ⟨idle, rfl⟩, State.hostFormat_of_idle (s := s1) idle]
    · rw [State.hostFormat_of_busy (s := s1) idle]
      simp [idle]
  rw [if_neg fun both => fmtid both.2,
    step_csrWrite_data released moves (by simp [csrCode, cmd, fmtid])]
  simp only [State.csrWriteData, true_and]
  split_ifs <;> rfl

end Sys2Proof.Machine
end

section
/-! PROOF. PHASE, DONE and ERRCODE after each operation of the sequencer (R121, R122, R228). -/

namespace Sys2Proof.Machine

/-- What the table of R121 speaks of. -/
def State.control (s : State) : BitVec 4 × Bool × BitVec 4 := (s.phase, s.done, s.errcode)

section
variable (s : State) (p : BitVec 4)

/-- R181: the operation ends, or the blocks begin. -/
theorem State.startBlocks_control :
    (s.startBlocks p).control =
      if s.width.toNat / 8 = 0 ∨ s.height.toNat / 8 = 0 then (Phase.idle, true, s.errcode)
      else (p, s.done, s.errcode) := by
  rcases s.startBlocks_cases p with ⟨empty, finish⟩ | ⟨wide, high, start, -⟩
  · rw [finish, if_pos empty]
    rfl
  · rw [start, if_neg (by omega)]
    rfl

/-- R182: another block remains, or the operation ends. -/
theorem State.nextBlock_control :
    (s.nextBlock p).control =
      if s.bX.toNat + 1 < s.width.toNat / 8 ∨ 0 < s.bY.toNat then (p, s.done, s.errcode)
      else (Phase.idle, true, s.errcode) := by
  rcases s.nextBlock_cases p with ⟨more, -, right⟩ | ⟨-, more, -, up⟩ | ⟨last, bottom, finish⟩
  · rw [right, if_pos (.inl more)]
    rfl
  · rw [up, if_pos (.inr more)]
    rfl
  · rw [finish, if_neg (by omega)]
    rfl

/-- R190, R205: the block's first phase goes on, or its second begins. -/
theorem State.nextInBlock_control :
    (s.nextInBlock p).control =
      (if s.idx.toNat < 63 then s.phase else p, s.done, s.errcode) := by
  unfold State.nextInBlock
  split <;> rfl

/-- R192, R210: the block's second phase goes on, or the next block is looked for. -/
theorem State.nextInDrain_control :
    (s.nextInDrain p).control =
      if s.idx.toNat < 63 then s.control else (s.nextBlock p).control := by
  unfold State.nextInDrain
  split <;> rfl

/-- R141: the width check, the height check, then the blocks. -/
theorem State.paddingComplete_control :
    s.paddingComplete.control =
      if s.width.toNat % 8 ≠ 0 then (Phase.idle, s.done, Error.widthNotMultipleOf8.code)
      else if s.height.toNat % 8 ≠ 0 then (Phase.idle, s.done, Error.heightNotMultipleOf8.code)
      else (s.startBlocks Phase.dFill).control := by
  rcases s.paddingComplete_cases with ⟨width, raised⟩ | ⟨width, height, raised⟩ |
    ⟨width, height, start⟩
  · rw [raised, if_pos width]
    rfl
  · rw [raised, if_neg (not_not.mpr width), if_pos height]
    rfl
  · rw [start, if_neg (not_not.mpr width), if_neg (not_not.mpr height)]

theorem skip_sub_one_eq_zero (skip : Word) : skip - 1#32 = 0#32 ↔ skip = 1#32 := by
  bv_omega

/-- R143: the padding goes on, or is complete. -/
theorem paddingByteIn_control :
    (paddingByteIn s).control =
      if s.skip = 1#32 then s.paddingComplete.control else s.control := by
  unfold paddingByteIn
  simp only [skip_sub_one_eq_zero]
  split
  · rw [State.paddingComplete_control, State.paddingComplete_control, State.startBlocks_control,
      State.startBlocks_control]
  · rfl

/-- R161: the header goes on, or the blocks begin. -/
theorem headerByteOut_control :
    (headerByteOut s).control =
      if s.hcnt.toNat < 127 then s.control else (s.startBlocks Phase.eGather).control := by
  unfold headerByteOut
  split <;> rfl

/-! ### The header parser -/

/-- R131: counting the byte changes neither PHASE nor the result. -/
theorem countHeaderByte_control (k : BitVec 7) (f : Flow) :
    (countHeaderByte k f).control = f.state.control := by
  cases f with
  | goesOn s =>
    simp only [countHeaderByte]
    split <;> rfl
  | raised s => rfl

theorem fieldMagic_control (v : Word) :
    (fieldMagic v s).state.control =
      if v = Config.magicWord then s.control
      else (Phase.idle, s.done, Error.invalidHeader.code) := by
  unfold fieldMagic
  split <;> rfl

theorem fieldFmtid_control (v : Word) :
    (fieldFmtid v s).state.control =
      if v = 8#32 then s.control else (Phase.idle, s.done, Error.unsupportedFormat.code) := by
  unfold fieldFmtid
  rw [resolve_eq_ite]
  by_cases known : v = 8#32
  · rw [if_pos known, if_pos known]
    rfl
  · rw [if_neg known, if_neg known]
    rfl

/-- R138 to R140: the pixel length and the payload offset are checked, then there is padding to
read, or none. -/
theorem fieldPayoff_eq (v : Word) :
    fieldPayoff v s =
      if s.pixbits ≠ declaredBits s.fmtid then
        .raised (State.raise { s with payoff := v } .pixelLengthInvalid)
      else if v.toNat < 28 then .raised (State.raise { s with payoff := v } .payloadStartsTooSoon)
      else if 28 < v.toNat then
        .goesOn { s with payoff := v, skip := v - 28#32, phase := Phase.dPad }
      else .goesOn (State.paddingComplete { s with payoff := v, skip := 0#32 }) := by
  have short : v.toNat < Config.hdrFixed.toNat ↔ v.toNat < 28 := Iff.rfl
  unfold fieldPayoff
  simp only [short]
  split
  · rfl
  split
  · rfl
  split
  · next none =>
    rw [if_neg (by bv_omega), none]
  · next some =>
    rw [if_pos (by bv_omega)]

theorem fieldPayoff_control (v : Word) :
    (fieldPayoff v s).state.control =
      if s.pixbits ≠ declaredBits s.fmtid then (Phase.idle, s.done, Error.pixelLengthInvalid.code)
      else if v.toNat < 28 then (Phase.idle, s.done, Error.payloadStartsTooSoon.code)
      else if 28 < v.toNat then (Phase.dPad, s.done, s.errcode)
      else s.paddingComplete.control := by
  rw [fieldPayoff_eq]
  split
  · rfl
  split
  · rfl
  split
  · rfl
  · simp only [Flow.state, State.paddingComplete_control, State.startBlocks_control]

/-- R131 to R138: three fields are checked, the others go where they belong. -/
theorem completeField_control (n : Nat) (v : Word) :
    (completeField n v s).state.control =
      if n = 0 then (fieldMagic v s).state.control
      else if n = 1 then (fieldFmtid v s).state.control
      else if n = 6 then (fieldPayoff v s).state.control
      else s.control := by
  unfold completeField
  split
  · rfl
  split
  · rfl
  iterate 3
    split
    · next field =>
      rw [if_neg (by omega)]
      rfl
  split <;> rfl

/-- R131: a byte inside a field, or the last byte of field 0, 1 or 6, or of another. -/
theorem headerByteIn_control (b : Byte) :
    (headerByteIn b s).control =
      let v := insertByte s.acc 3 b
      if s.hcnt.toNat = 3 then (fieldMagic v s).state.control
      else if s.hcnt.toNat = 7 then (fieldFmtid v s).state.control
      else if s.hcnt.toNat = 27 then (fieldPayoff v s).state.control
      else s.control := by
  unfold headerByteIn
  simp only [countHeaderByte_control]
  split
  · next last =>
    rw [last, completeField_control]
    simp only [fieldMagic_control, fieldFmtid_control, fieldPayoff_control,
      State.paddingComplete_control, State.startBlocks_control]
    simp only [show s.hcnt.toNat / 4 = 0 ↔ s.hcnt.toNat = 3 by omega,
      show s.hcnt.toNat / 4 = 1 ↔ s.hcnt.toNat = 7 by omega,
      show s.hcnt.toNat / 4 = 6 ↔ s.hcnt.toNat = 27 by omega]
    rfl
  · next inside =>
    rw [if_neg (by omega), if_neg (by omega), if_neg (by omega)]
    rfl

end

end Sys2Proof.Machine
end

section
/-! PROOF. An operation ends only with a result, or by `rst` (R114). -/

namespace Sys2Proof.Machine

/-- In IDLE there is DONE or an error. -/
def HasResult (c : BitVec 4 × Bool × BitVec 4) : Prop :=
  c.1 = Phase.idle → c.2.1 = true ∨ c.2.2 ≠ 0#4

theorem hasResult_running {p : BitVec 4} (busy : p ≠ Phase.idle) (done : Bool)
    (errcode : BitVec 4) : HasResult (p, done, errcode) := fun idle => absurd idle busy

theorem hasResult_done (p errcode : BitVec 4) : HasResult (p, true, errcode) := fun _ => .inl rfl

theorem hasResult_error (p : BitVec 4) (done : Bool) (e : Error) : HasResult (p, done, e.code) :=
  fun _ => .inr e.code_ne_zero

section
variable {s t : State} {p : BitVec 4}

theorem State.raise_hasResult (s : State) (e : Error) : HasResult (s.raise e).control :=
  hasResult_error _ _ e

theorem State.startBlocks_hasResult (busy : p ≠ Phase.idle) :
    HasResult (s.startBlocks p).control := by
  rw [State.startBlocks_control]
  split
  · exact hasResult_done _ _
  · exact hasResult_running busy _ _

theorem State.nextInBlock_hasResult (here : s.phase ≠ Phase.idle) (busy : p ≠ Phase.idle) :
    HasResult (s.nextInBlock p).control := by
  rw [State.nextInBlock_control]
  split
  · exact hasResult_running here _ _
  · exact hasResult_running busy _ _

theorem State.nextInDrain_hasResult (here : s.phase ≠ Phase.idle) (busy : p ≠ Phase.idle) :
    HasResult (s.nextInDrain p).control := by
  rw [State.nextInDrain_control, State.nextBlock_control]
  split
  · exact hasResult_running here _ _
  split
  · exact hasResult_running busy _ _
  · exact hasResult_done _ _

theorem State.paddingComplete_hasResult : HasResult s.paddingComplete.control := by
  rw [State.paddingComplete_control]
  split
  · exact hasResult_error _ _ _
  split
  · exact hasResult_error _ _ _
  · exact State.startBlocks_hasResult (by decide)

theorem paddingByteIn_hasResult (here : s.phase ≠ Phase.idle) :
    HasResult (paddingByteIn s).control := by
  rw [paddingByteIn_control]
  split
  · exact State.paddingComplete_hasResult
  · exact hasResult_running here _ _

theorem headerByteOut_hasResult (here : s.phase ≠ Phase.idle) :
    HasResult (headerByteOut s).control := by
  rw [headerByteOut_control]
  split
  · exact hasResult_running here _ _
  · exact State.startBlocks_hasResult (by decide)

theorem fieldPayoff_hasResult (v : Word) : HasResult (fieldPayoff v s).state.control := by
  rw [fieldPayoff_control]
  split
  · exact hasResult_error _ _ _
  split
  · exact hasResult_error _ _ _
  split
  · exact hasResult_running (by decide) _ _
  · exact State.paddingComplete_hasResult

theorem headerByteIn_hasResult (here : s.phase ≠ Phase.idle) (b : Byte) :
    HasResult (headerByteIn b s).control := by
  have running : HasResult s.control := hasResult_running here _ _
  rw [headerByteIn_control]
  simp only [fieldMagic_control, fieldFmtid_control]
  split
  · split
    · exact running
    · exact hasResult_error _ _ _
  split
  · split
    · exact running
    · exact hasResult_error _ _ _
  split
  · exact fieldPayoff_hasResult _
  · exact running

/-- R121: a step that ends the operation leaves DONE or an error. -/
theorem exec_hasResult {i : Instr} (code : encode i = .phase p) (here : s.phase ≠ Phase.idle)
    (h : exec i s = .next t) : HasResult t.control := by
  cases i with
  | nop | decode | encode | fmtA8 => cases code
  | stepDHdr =>
    rcases exec_in_cases s with ⟨b, rest, -, ok, -, -⟩ | ⟨rest, -, fail, -, -⟩
    · cases ok.symm.trans h
      refine headerByteIn_hasResult ?_ b
      exact here
    · cases fail.symm.trans h
      exact State.raise_hasResult _ _
  | stepDPad =>
    rcases exec_in_cases s with ⟨b, rest, -, -, ok, -⟩ | ⟨rest, -, -, fail, -⟩
    · cases ok.symm.trans h
      exact paddingByteIn_hasResult here
    · cases fail.symm.trans h
      exact State.raise_hasResult _ _
  | stepDFill =>
    rcases exec_in_cases s with ⟨b, rest, -, -, -, ok⟩ | ⟨rest, -, -, -, fail⟩
    · cases ok.symm.trans h
      exact State.nextInBlock_hasResult here (by decide)
    · cases fail.symm.trans h
      exact State.raise_hasResult _ _
  | stepDDrain =>
    cases h
    exact State.nextInDrain_hasResult here (by decide)
  | stepEHdr =>
    rcases exec_eHdr_cases s with ⟨-, ok⟩ | ⟨-, fail⟩
    · cases ok.symm.trans h
      exact headerByteOut_hasResult here
    · cases fail.symm.trans h
      exact State.raise_hasResult _ _
  | stepEGather =>
    cases h
    exact State.nextInBlock_hasResult here (by decide)
  | stepEEmit =>
    rcases exec_eEmit_cases s with ⟨-, ok⟩ | ⟨-, fail⟩
    · cases ok.symm.trans h
      exact State.nextInDrain_hasResult here (by decide)
    · cases fail.symm.trans h
      exact State.raise_hasResult _ _

end

/-! ### The moves of a running block -/

section
variable {s t : State}

/-- From `s` to `t` the registers, the counters and BLK have stayed: an agent around the block has
moved. -/
structure State.AgentMoved (s t : State) : Prop where
  block : t = { s with
    turns := t.turns, trace := t.trace, rst := t.rst
    source := t.source, sink := t.sink, raster := t.raster }
  source : t.source = s.source ∨ ∃ answers, s.turns.head? = some (.source answers)
  sink : t.sink = s.sink ∨ ∃ k, s.turns.head? = some (.sink k)
  raster : t.raster = s.raster ∨ ∃ x y px, s.turns.head? = some (.raster x y px)
  record : s.NoTransferTo t

theorem State.agentMoved_refl (s : State) : s.AgentMoved s :=
  ⟨rfl, .inl rfl, .inl rfl, .inl rfl, State.noTransferTo_of_trace_eq rfl⟩

/-- The move was over at once. -/
theorem State.agentMoved_popTurn (s : State) : s.AgentMoved s.popTurn :=
  ⟨rfl, .inl rfl, .inl rfl, .inl rfl, State.noTransferTo_of_trace_eq rfl⟩

/-- A host action on a running block. -/
theorem State.agentMoved_hostAct (busy : s.phase ≠ Phase.idle) {a : HostAct}
    (other : a ≠ .rstAssert) : s.AgentMoved (hostAct a s.popTurn) := by
  have kept := hostAct_of_busy (s := s.popTurn) busy other
  refine ⟨?_, .inl ?_, .inl ?_, .inl ?_, s.popTurn.noTransferTo_hostAct a⟩
  all_goals
    rw [kept]
    rfl

theorem State.agentMoved_quietStep (busy : s.phase ≠ Phase.idle)
    (other : s.turns.head? ≠ some (.host .rstAssert)) : s.AgentMoved (quietStep s) := by
  cases moves : s.turns with
  | nil =>
    have same : quietStep s = s := by simp only [quietStep, moves]
    rw [same]
    exact s.agentMoved_refl
  | cons turn rest =>
    have head : s.turns.head? = some turn := by rw [moves, List.head?_cons]
    have act : quietStep s = agentAct turn s.popTurn := by simp only [quietStep, moves]
    rw [act]
    have silent : s.NoTransferTo s.popTurn := State.noTransferTo_of_trace_eq rfl
    cases turn with
    | sequencer => exact s.agentMoved_popTurn
    | host a =>
      exact State.agentMoved_hostAct busy fun assert => other (by rw [head, assert])
    | source answers => exact ⟨rfl, .inr ⟨_, head⟩, .inl rfl, .inl rfl, silent⟩
    | sink k => exact ⟨rfl, .inl rfl, .inr ⟨_, head⟩, .inl rfl, silent⟩
    | raster x y px => exact ⟨rfl, .inl rfl, .inl rfl, .inr ⟨_, _, _, head⟩, silent⟩

/-- Everything a step can do to a running block: `rst` is asserted, the operation of its PHASE code
runs, or an agent around the block moves. -/
theorem step_busy_cases (busy : s.phase ≠ Phase.idle) (h : step s = .next t) :
    s.turns.head? = some (.host .rstAssert) ∨
    (∃ i, encode i = .phase s.phase ∧ exec i s.popTurn = .next t) ∨
    s.AgentMoved t := by
  by_cases assert : s.turns.head? = some (.host .rstAssert)
  · exact .inl assert
  by_cases sequencer : s.turns.head? = some .sequencer
  · obtain ⟨rest, moves⟩ := List.head?_eq_some_iff.mp sequencer
    by_cases asserted : s.rst = true
    · cases (step_of_no_code (State.pending_asserted asserted)).symm.trans h
      exact .inr (.inr (State.agentMoved_quietStep busy assert))
    · exact .inr (.inl (step_sequencer_cases moves (by simpa using asserted) busy h))
  rcases step_off_sequencer_cases (.inr sequencer) h with rfl | rfl | ⟨idle, -⟩
  · exact .inr (.inr (State.agentMoved_quietStep busy assert))
  · exact .inr (.inr s.agentMoved_popTurn)
  · exact absurd idle busy

theorem State.AgentMoved.phase (moved : s.AgentMoved t) : t.phase = s.phase :=
  (congrArg State.phase moved.block :)

end

/-- Settles O46: a running block ignores both commands, and only a step of the sequencer or `rst`
leads it to IDLE. -/
theorem oneOperationAtATime : Obligations.OneOperationAtATime := by
  unfold Obligations.OneOperationAtATime
  intro s busy
  refine ⟨⟨?_, ?_⟩, fun t h ended => ?_⟩
  · rw [exec, execDecode, if_neg busy]
  · rw [exec, execEncode, if_neg busy]
  rcases step_busy_cases busy h with assert | ⟨i, code, run⟩ | moved
  · exact .inr (.inr assert)
  · rcases exec_hasResult (s := s.popTurn) code busy run ended with done | error
    · exact .inl done
    · exact .inr (.inl error)
  · exact absurd (moved.phase.symm.trans ended) busy

end Sys2Proof.Machine
end

section
/-! PROOF. The table of transitions (R121): the rows of a sequencer step. -/

namespace Sys2Proof.Machine

section
variable {s t : State} {p : BitVec 4}

theorem State.isIn_of_control (h : t.control = (p, false, 0#4)) : t.isIn p := by
  simpa [State.control, State.isIn] using h

theorem State.isDone_of_control (h : t.control = (Phase.idle, true, 0#4)) : t.isDone := by
  simpa [State.control, State.isDone] using h

theorem State.isErr_of_control {e : Error} (h : t.control = (Phase.idle, false, e.code)) :
    t.isErr e := by
  simpa [State.control, State.isErr] using h

theorem State.Clear.control (clear : s.Clear) : s.control = (s.phase, false, 0#4) := by
  rw [State.control, clear.notDone, clear.noError]

theorem State.Clear.raise_isErr (clear : s.Clear) (e : Error) : (s.raise e).isErr e :=
  ⟨rfl, clear.notDone, rfl⟩

/-- R181: where the hand-over to the blocks leads. -/
theorem State.Clear.startBlocks_rows (clear : s.Clear) (width : s.width.toNat % 8 = 0)
    (height : s.height.toNat % 8 = 0) :
    if s.width = 0#32 ∨ s.height = 0#32 then (s.startBlocks p).isDone
    else (s.startBlocks p).isIn p := by
  rcases s.startBlocks_cases p with ⟨empty, finish⟩ | ⟨wide, high, start, -⟩
  · rw [if_pos (by bv_omega), finish]
    exact ⟨rfl, rfl, clear.noError⟩
  · rw [if_neg (by bv_omega), start]
    exact ⟨rfl, clear.notDone, clear.noError⟩

/-- The rows "padding complete". -/
theorem State.Clear.paddingComplete_rows (clear : s.Clear) :
    s.paddingRows s.paddingComplete := by
  unfold State.paddingRows
  rcases s.paddingComplete_cases with ⟨width, raised⟩ | ⟨width, height, raised⟩ |
    ⟨width, height, start⟩
  · rw [if_pos width, raised]
    exact clear.raise_isErr _
  · rw [if_neg (not_not.mpr width), if_pos height, raised]
    exact clear.raise_isErr _
  · rw [if_neg (not_not.mpr width), if_neg (not_not.mpr height), start]
    exact clear.startBlocks_rows width height

/-- The rows of a block's second phase, after pixel or byte IDX. -/
theorem State.Clear.nextInDrain_rows (clear : s.Clear) :
    if s.idx.toNat < 63 then (s.nextInDrain p).isIn s.phase
    else if s.bX.toNat + 1 < s.width.toNat / 8 ∨ 0 < s.bY.toNat then (s.nextInDrain p).isIn p
    else (s.nextInDrain p).isDone := by
  have control := s.nextInDrain_control p
  rw [State.nextBlock_control, clear.control, clear.notDone, clear.noError] at control
  split
  · next more => exact State.isIn_of_control (control.trans (if_pos more))
  · next last =>
    rw [if_neg last] at control
    split
    · next another => exact State.isIn_of_control (control.trans (if_pos another))
    · next none => exact State.isDone_of_control (control.trans (if_neg none))

/-- The rows of a block's first phase, after pixel or byte IDX. -/
theorem State.Clear.nextInBlock_rows (clear : s.Clear) :
    (s.nextInBlock p).isIn (if s.idx.toNat < 63 then s.phase else p) := by
  refine State.isIn_of_control ?_
  rw [State.nextInBlock_control, clear.notDone, clear.noError]

/-- R161: the rows of E_HDR for an accepted byte. -/
theorem State.Inv.headerByteOut_rows (inv : s.Inv) (phase : s.phase = Phase.eHdr) :
    if s.hcnt.toNat < 127 then (headerByteOut s).isIn Phase.eHdr
    else if s.width = 0#32 ∨ s.height = 0#32 then (headerByteOut s).isDone
    else (headerByteOut s).isIn Phase.eGather := by
  have clear := inv.clear (by simp [phase])
  obtain ⟨width, height⟩ := inv.encodeDims phase
  unfold headerByteOut
  split
  · exact ⟨phase, clear.notDone, clear.noError⟩
  · exact clear.startBlocks_rows width height

/-- R143: the rows of D_PAD for a byte. -/
theorem State.Inv.paddingByteIn_rows (inv : s.Inv) (phase : s.phase = Phase.dPad) :
    if 1 < s.skip.toNat then (paddingByteIn s).isIn Phase.dPad
    else s.paddingRows (paddingByteIn s) := by
  have clear := inv.clear (by simp [phase])
  have range := inv.skipRange phase
  have counted : State.Clear { s with skip := s.skip - 1#32 } := { clear with }
  unfold paddingByteIn
  simp only [skip_sub_one_eq_zero]
  split
  · next more =>
    rw [if_neg (by bv_omega)]
    exact ⟨phase, clear.notDone, clear.noError⟩
  · next last =>
    rw [if_pos (by bv_omega)]
    exact counted.paddingComplete_rows

/-- The rows speak of PHASE, DONE and ERRCODE only. -/
theorem State.paddingRows_congr {t' : State} (same : t'.control = t.control)
    (rows : s.paddingRows t) : s.paddingRows t' := by
  simp only [State.control, Prod.mk.injEq] at same
  obtain ⟨phase, done, errcode⟩ := same
  simpa only [State.paddingRows, State.isErr, State.isDone, State.isIn, phase, done, errcode]
    using rows

/-- R138 to R140: the rows for the last byte of the header. -/
theorem State.Clear.fieldPayoff_rows (clear : s.Clear) (format : s.fmtid = 8#32) {v : Word}
    (control : t.control = (fieldPayoff v s).state.control) :
    if s.pixbits ≠ 8#32 then t.isErr .pixelLengthInvalid
    else if v.toNat < 28 then t.isErr .payloadStartsTooSoon
    else if 28 < v.toNat then t.isIn Phase.dPad
    else s.paddingRows t := by
  rw [fieldPayoff_control, format, declaredBits_a8, clear.notDone, clear.noError] at control
  split
  · next length => exact State.isErr_of_control (control.trans (if_pos length))
  · next length =>
    rw [if_neg length] at control
    split
    · next soon => exact State.isErr_of_control (control.trans (if_pos soon))
    · next soon =>
      rw [if_neg soon] at control
      split
      · next padding => exact State.isIn_of_control (control.trans (if_pos padding))
      · next none =>
        exact State.paddingRows_congr (control.trans (if_neg none)) clear.paddingComplete_rows

/-- R131 to R140: the rows of D_HDR for a byte. -/
theorem State.Inv.headerByteIn_rows (inv : s.Inv) (phase : s.phase = Phase.dHdr) (b : Byte) :
    s.headerRows (headerByteIn b s) (insertByte s.acc 3 b) := by
  have clear := inv.clear (by simp [phase])
  have count := inv.headerCount phase
  have control := headerByteIn_control s b
  simp only [fieldMagic_control, fieldFmtid_control, clear.control, clear.notDone, phase] at control
  unfold State.headerRows
  simp only [← BitVec.toNat_inj (x := s.hcnt), BitVec.toNat_ofNat]
  split
  · next magic =>
    rw [if_pos magic.1, if_neg magic.2] at control
    exact State.isErr_of_control control
  split
  · next format =>
    rw [if_neg (by omega), if_pos format.1, if_neg format.2] at control
    exact State.isErr_of_control control
  split
  · next magic format more =>
    refine State.isIn_of_control (control.trans ?_)
    split
    · next field => rw [if_pos (by tauto)]
    split
    · next field => rw [if_pos (by tauto)]
    · rw [if_neg (by omega)]
  · next last =>
    rw [if_neg (by omega), if_neg (by omega), if_pos (by omega)] at control
    have format := inv.formatRead (.inl ⟨phase, by omega⟩)
    exact clear.fieldPayoff_rows ((resolve_some _ _).mp format) control

/-! ### The rows of each step kind -/

theorem State.byteRows_of_dHdr {b : Byte} (phase : s.phase = Phase.dHdr)
    (rows : s.headerRows t (insertByte s.acc 3 b)) : s.byteRows t b :=
  ⟨fun _ => rows, by simp [phase], by simp [phase]⟩

theorem State.byteRows_of_dPad {b : Byte} (phase : s.phase = Phase.dPad)
    (rows : if 1 < s.skip.toNat then t.isIn Phase.dPad else s.paddingRows t) : s.byteRows t b :=
  ⟨by simp [phase], fun _ => rows, by simp [phase]⟩

theorem State.byteRows_of_dFill {b : Byte} (phase : s.phase = Phase.dFill)
    (rows : t.isIn (if s.idx.toNat < 63 then Phase.dFill else Phase.dDrain)) : s.byteRows t b :=
  ⟨by simp [phase], by simp [phase], fun _ => rows⟩

/-- In a phase that takes a byte the answer on IN decides. -/
theorem State.sequencerRows_of_in
    (takes : s.phase = Phase.dHdr ∨ s.phase = Phase.dPad ∨ s.phase = Phase.dFill)
    (rows : (∃ b rest, s.source = .byte b :: rest ∧ s.byteRows t b) ∨
      (∃ rest, s.source = .fail :: rest ∨ s.source = [] ∧ rest = []) ∧ t.isErr .ioError) :
    s.sequencerRows t := by
  refine ⟨fun _ => ?_, ?_, ?_, ?_⟩
  · rcases rows with ⟨b, rest, source, rows⟩ | ⟨⟨rest, source | ⟨source, -⟩⟩, rows⟩
    all_goals
      rw [source]
      exact rows
  all_goals rcases takes with phase | phase | phase <;> simp [phase]

/-- In a phase that sends a byte the answer on OUT decides. -/
theorem State.sequencerRows_of_out (sends : s.phase = Phase.eHdr ∨ s.phase = Phase.eEmit)
    (rows : Sink.next s.sink = .ok ∧ s.okRows t ∨ Sink.next s.sink = .fail ∧ t.isErr .ioError) :
    s.sequencerRows t := by
  refine ⟨?_, fun _ => ?_, ?_, ?_⟩
  case refine_2 =>
    rcases rows with ⟨answer, rows⟩ | ⟨answer, rows⟩
    all_goals
      rw [Sink.next] at answer
      rw [answer]
      exact rows
  all_goals rcases sends with phase | phase <;> simp [phase]

/-- STEP.D_HDR. -/
theorem State.Inv.exec_dHdr_rows (inv : s.Inv) (phase : s.phase = Phase.dHdr)
    (h : exec .stepDHdr s = .next t) : s.sequencerRows t := by
  rcases exec_in_cases s with ⟨b, rest, source, ok, -, -⟩ | ⟨rest, source, fail, -, -⟩
  · cases ok.symm.trans h
    have env := inv.withEnvironment inv.canonical rest s.sink s.turns (.inByte b :: s.trace)
    exact State.sequencerRows_of_in (.inl phase)
      (.inl ⟨b, rest, source, State.byteRows_of_dHdr phase (env.headerByteIn_rows phase b)⟩)
  · cases fail.symm.trans h
    exact State.sequencerRows_of_in (.inl phase)
      (.inr ⟨⟨rest, source⟩, rfl, (inv.clear (by simp [phase])).notDone, rfl⟩)

/-- STEP.D_PAD. -/
theorem State.Inv.exec_dPad_rows (inv : s.Inv) (phase : s.phase = Phase.dPad)
    (h : exec .stepDPad s = .next t) : s.sequencerRows t := by
  rcases exec_in_cases s with ⟨b, rest, source, -, ok, -⟩ | ⟨rest, source, -, fail, -⟩
  · cases ok.symm.trans h
    have env := inv.withEnvironment inv.canonical rest s.sink s.turns (.inByte b :: s.trace)
    exact State.sequencerRows_of_in (.inr (.inl phase))
      (.inl ⟨b, rest, source, State.byteRows_of_dPad phase (env.paddingByteIn_rows phase)⟩)
  · cases fail.symm.trans h
    exact State.sequencerRows_of_in (.inr (.inl phase))
      (.inr ⟨⟨rest, source⟩, rfl, (inv.clear (by simp [phase])).notDone, rfl⟩)

/-- STEP.D_FILL. -/
theorem State.Inv.exec_dFill_rows (inv : s.Inv) (phase : s.phase = Phase.dFill)
    (h : exec .stepDFill s = .next t) : s.sequencerRows t := by
  have clear := inv.clear (by simp [phase])
  rcases exec_in_cases s with ⟨b, rest, source, -, -, ok⟩ | ⟨rest, source, -, -, fail⟩
  · cases ok.symm.trans h
    refine State.sequencerRows_of_in (.inr (.inr phase))
      (.inl ⟨b, rest, source, State.byteRows_of_dFill phase ?_⟩)
    rw [← phase]
    exact State.Clear.nextInBlock_rows { clear with }
  · cases fail.symm.trans h
    exact State.sequencerRows_of_in (.inr (.inr phase))
      (.inr ⟨⟨rest, source⟩, rfl, clear.notDone, rfl⟩)

/-- STEP.E_HDR. -/
theorem State.Inv.exec_eHdr_rows (inv : s.Inv) (phase : s.phase = Phase.eHdr)
    (h : exec .stepEHdr s = .next t) : s.sequencerRows t := by
  rcases exec_eHdr_cases s with ⟨answer, ok⟩ | ⟨answer, fail⟩
  · cases ok.symm.trans h
    have env (trace : List Event) :=
      inv.withEnvironment inv.canonical s.source (Sink.rest s.sink) s.turns trace
    exact State.sequencerRows_of_out (.inl phase)
      (.inl ⟨answer, fun _ => (env _).headerByteOut_rows phase, by simp [phase]⟩)
  · cases fail.symm.trans h
    exact State.sequencerRows_of_out (.inl phase)
      (.inr ⟨answer, rfl, (inv.clear (by simp [phase])).notDone, rfl⟩)

/-- STEP.E_EMIT. -/
theorem State.Inv.exec_eEmit_rows (inv : s.Inv) (phase : s.phase = Phase.eEmit)
    (h : exec .stepEEmit s = .next t) : s.sequencerRows t := by
  have clear := inv.clear (by simp [phase])
  rcases exec_eEmit_cases s with ⟨answer, ok⟩ | ⟨answer, fail⟩
  · cases ok.symm.trans h
    have sent (trace : List Event) :
        State.Clear { s with sink := Sink.rest s.sink, trace := trace } := { clear with }
    refine State.sequencerRows_of_out (.inr phase)
      (.inl ⟨answer, by simp [phase], fun _ => ?_⟩)
    rw [← phase]
    exact (sent _).nextInDrain_rows
  · cases fail.symm.trans h
    exact State.sequencerRows_of_out (.inr phase) (.inr ⟨answer, rfl, clear.notDone, rfl⟩)

/-- STEP.D_DRAIN: the port is the raster's, which answers always. -/
theorem State.Inv.exec_dDrain_rows (inv : s.Inv) (phase : s.phase = Phase.dDrain)
    (h : exec .stepDDrain s = .next t) : s.sequencerRows t := by
  have written (x y : Word) (px : Pixel) : (s.rasWrite x y px).Clear :=
    { inv.clear (by simp [phase]) with canonical := Memory.setPixel_wf _ x y px inv.canonical }
  cases h
  refine ⟨by simp [phase], by simp [phase], fun _ => ?_, by simp [phase]⟩
  rw [← phase]
  exact (written _ _ _).nextInDrain_rows

/-- STEP.E_GATHER: the port is the raster's, which answers always. -/
theorem State.Inv.exec_eGather_rows (inv : s.Inv) (phase : s.phase = Phase.eGather)
    (h : exec .stepEGather s = .next t) : s.sequencerRows t := by
  have clear := inv.clear (by simp [phase])
  cases h
  refine ⟨by simp [phase], by simp [phase], by simp [phase], fun _ => ?_⟩
  rw [← phase]
  exact State.Clear.nextInBlock_rows { clear with }

/-- Every operation of the sequencer takes the row of its phase. -/
theorem State.Inv.exec_rows (inv : s.Inv) {i : Instr} (code : encode i = .phase s.phase)
    (h : exec i s = .next t) : s.sequencerRows t := by
  have phase {p : BitVec 4} (code : CodeWord.phase p = .phase s.phase) : s.phase = p :=
    (CodeWord.phase.inj code).symm
  cases i with
  | nop | decode | encode | fmtA8 => cases code
  | stepDHdr => exact inv.exec_dHdr_rows (phase code) h
  | stepDPad => exact inv.exec_dPad_rows (phase code) h
  | stepDFill => exact inv.exec_dFill_rows (phase code) h
  | stepDDrain => exact inv.exec_dDrain_rows (phase code) h
  | stepEHdr => exact inv.exec_eHdr_rows (phase code) h
  | stepEGather => exact inv.exec_eGather_rows (phase code) h
  | stepEEmit => exact inv.exec_eEmit_rows (phase code) h

end

end Sys2Proof.Machine
end

section
/-! PROOF. The table of transitions (R121): every move. -/

namespace Sys2Proof.Machine

/-! ### The moves that leave PHASE, DONE and ERRCODE -/

theorem State.hostFormat_control (s : State) (id : Word) :
    (s.hostFormat id).control = s.control := by
  unfold State.hostFormat
  split <;> rfl

theorem State.csrWriteData_control (s : State) (off : Word) (size : AccessSize) (v : Word) :
    (s.csrWriteData off size v).control = s.control := by
  unfold State.csrWriteData
  split
  · rfl
  split <;> rfl

theorem hostAct_control (s : State) {a : HostAct} (other : a ≠ .rstAssert) :
    (hostAct a s).control = s.control := by
  cases a with
  | rstAssert => exact absurd rfl other
  | csrRead | rstRelease => rfl
  | csrWrite off size v =>
    simp only [hostAct]
    split
    · rfl
    · exact s.csrWriteData_control off size v
  | waitIdle =>
    simp only [hostAct]
    split <;> rfl

theorem quietStep_control (s : State) (other : s.turns.head? ≠ some (.host .rstAssert)) :
    (quietStep s).control = s.control := by
  cases moves : s.turns with
  | nil => simp only [quietStep, moves]
  | cons turn rest =>
    rw [quietStep_of_turns moves]
    cases turn with
    | host a =>
      refine hostAct_control { s with turns := rest } fun assert => other ?_
      rw [moves, assert, List.head?_cons]
    | sequencer | source | sink | raster => rfl

section
variable {s t : State}

/-- R250: the assertion of `rst` is never a move with a code word. -/
theorem step_rstAssert (assert : s.turns.head? = some (.host .rstAssert)) (h : step s = .next t) :
    t.AtReset ∧ t.rst = true := by
  obtain ⟨rest, moves⟩ := List.head?_eq_some_iff.mp assert
  have noCode : s.pending = none := by simp [State.pending, moves]
  cases (step_of_no_code noCode).symm.trans h
  rw [quietStep_of_turns moves]
  exact ⟨State.applyReset_atReset _, rfl⟩

/-- R121: a move that is no row of the table leaves PHASE, DONE and ERRCODE. -/
theorem step_control_of_other (h : step s = .next t)
    (noAssert : s.turns.head? ≠ some (.host .rstAssert))
    (noDecode : ¬(s.rst = false ∧ s.phase = Phase.idle ∧
      s.turns.head? = some (.host (.csrWrite 0x20#32 .word 1#32))))
    (noEncode : ¬(s.rst = false ∧ s.phase = Phase.idle ∧
      s.turns.head? = some (.host (.csrWrite 0x20#32 .word 2#32))))
    (noStep : ¬(s.rst = false ∧ s.phase ≠ Phase.idle ∧ s.turns.head? = some .sequencer)) :
    t.control = s.control := by
  rcases step_cases s t h with
    ⟨-, rfl⟩ | ⟨c, i, pending, decodes, run⟩ | ⟨v, -, rfl⟩ | ⟨v, -, rfl⟩
  · exact quietStep_control s noAssert
  · obtain rfl := eq_encode_of_decodeCode decodes
    obtain ⟨released, -⟩ := s.pending_some _ pending
    have off : s.phase = Phase.idle ∨ s.turns.head? ≠ some .sequencer := by tauto
    by_cases nop : i = .nop
    · subst nop
      cases run
      rfl
    by_cases format : i = .fmtA8
    · subst format
      cases run
      exact s.popTurn.hostFormat_control _
    have host := hostInstr_of_encode fun p code => State.pending_ne_phase off p (code ▸ pending)
    rcases exec_host_cases host run with rfl | ⟨idle, -⟩
    · rfl
    · exfalso
      rcases State.pending_command (s := s) idle pending nop format with command | command
      · exact noDecode ⟨released, idle, command⟩
      · exact noEncode ⟨released, idle, command⟩
  · rfl
  · exact s.popTurn.hostFormat_control v

/-! ### The commands -/

/-- R111: the row of a DECODE that is taken. -/
theorem step_decode_isIn (released : s.rst = false) (idle : s.phase = Phase.idle)
    (command : s.turns.head? = some (.host (.csrWrite 0x20#32 .word 1#32)))
    (h : step s = .next t) : t.isIn Phase.dHdr := by
  obtain ⟨rest, moves⟩ := List.head?_eq_some_iff.mp command
  have taken : step s = .next (State.startDecode { s with turns := rest }) :=
    (step_csrWrite_cmd released moves).trans (if_pos idle)
  cases taken.symm.trans h
  exact ⟨rfl, rfl, rfl⟩

/-- R112: the rows of an ENCODE that is taken. -/
theorem State.startEncode_rows (s : State) : s.encodeRows s.startEncode := by
  rw [State.startEncode_eq]
  unfold State.encodeRows
  split
  · exact ⟨rfl, rfl, rfl⟩
  split
  · exact ⟨rfl, rfl, rfl⟩
  split
  · exact ⟨rfl, rfl, rfl⟩
  · exact ⟨rfl, rfl, rfl⟩

theorem step_encode_rows (released : s.rst = false) (idle : s.phase = Phase.idle)
    (command : s.turns.head? = some (.host (.csrWrite 0x20#32 .word 2#32)))
    (h : step s = .next t) : s.encodeRows t := by
  obtain ⟨rest, moves⟩ := List.head?_eq_some_iff.mp command
  have taken : step s = .next (State.startEncode { s with turns := rest }) :=
    (step_csrWrite_cmd released moves).trans (if_pos idle)
  cases taken.symm.trans h
  exact State.startEncode_rows { s with turns := rest }

/-! ### From and To -/

/-- The columns From and To of R121. -/
def phaseTable : List (BitVec 4 × BitVec 4) :=
  [(Phase.idle, Phase.dHdr), (Phase.idle, Phase.eHdr),
   (Phase.dHdr, Phase.idle), (Phase.dHdr, Phase.dPad), (Phase.dHdr, Phase.dFill),
   (Phase.dPad, Phase.idle), (Phase.dPad, Phase.dFill),
   (Phase.dFill, Phase.idle), (Phase.dFill, Phase.dDrain),
   (Phase.dDrain, Phase.idle), (Phase.dDrain, Phase.dFill),
   (Phase.eHdr, Phase.idle), (Phase.eHdr, Phase.eGather),
   (Phase.eGather, Phase.eEmit),
   (Phase.eEmit, Phase.idle), (Phase.eEmit, Phase.eGather)]

/-- PHASE stays, or changes as a row says. -/
abbrev PhaseRow (p q : BitVec 4) : Prop := q = p ∨ (p, q) ∈ phaseTable

theorem phaseRow_of {p q : BitVec 4} (phase : s.phase = p) (target : t.phase = q)
    (row : PhaseRow p q) : PhaseRow s.phase t.phase := by
  rwa [phase, target]

theorem State.paddingRows_phase (rows : s.paddingRows t) :
    t.phase = Phase.idle ∨ t.phase = Phase.dFill := by
  unfold State.paddingRows at rows
  split_ifs at rows
  · exact .inl rows.1
  · exact .inl rows.1
  · exact .inl rows.1
  · exact .inr rows.1

theorem State.headerRows_phase {v : Word} (rows : s.headerRows t v) :
    t.phase = Phase.dHdr ∨ t.phase = Phase.dPad ∨ t.phase = Phase.idle ∨ t.phase = Phase.dFill := by
  unfold State.headerRows at rows
  split_ifs at rows
  · exact .inr (.inr (.inl rows.1))
  · exact .inr (.inr (.inl rows.1))
  · exact .inl rows.1
  · exact .inr (.inr (.inl rows.1))
  · exact .inr (.inr (.inl rows.1))
  · exact .inr (.inl rows.1)
  · exact .inr (.inr (State.paddingRows_phase rows))

theorem State.encodeRows_phase (rows : s.encodeRows t) :
    t.phase = Phase.idle ∨ t.phase = Phase.eHdr := by
  unfold State.encodeRows at rows
  split_ifs at rows
  · exact .inl rows.1
  · exact .inl rows.1
  · exact .inl rows.1
  · exact .inr rows.1

/-- The rows for an answer on IN. -/
theorem State.byteRows_phaseRow {b : Byte}
    (takes : s.phase = Phase.dHdr ∨ s.phase = Phase.dPad ∨ s.phase = Phase.dFill)
    (rows : s.byteRows t b) : PhaseRow s.phase t.phase := by
  obtain ⟨header, padding, fill⟩ := rows
  rcases takes with phase | phase | phase
  · rcases State.headerRows_phase (header phase) with target | target | target | target
    all_goals exact phaseRow_of phase target (by decide)
  · have row := padding phase
    split_ifs at row
    · exact phaseRow_of phase row.1 (by decide)
    · rcases State.paddingRows_phase row with target | target
      all_goals exact phaseRow_of phase target (by decide)
  · have row := fill phase
    split_ifs at row
    all_goals exact phaseRow_of phase row.1 (by decide)

/-- The rows for an answer `Ok` on OUT. -/
theorem State.okRows_phaseRow (sends : s.phase = Phase.eHdr ∨ s.phase = Phase.eEmit)
    (rows : s.okRows t) : PhaseRow s.phase t.phase := by
  obtain ⟨header, emit⟩ := rows
  rcases sends with phase | phase
  · have row := header phase
    split_ifs at row
    all_goals exact phaseRow_of phase row.1 (by decide)
  · have row := emit phase
    split_ifs at row
    all_goals exact phaseRow_of phase row.1 (by decide)

/-- The rows for the raster port. -/
theorem State.rasterRows_phaseRow (uses : s.phase = Phase.dDrain ∨ s.phase = Phase.eGather)
    (rows : s.rasterRows t) : PhaseRow s.phase t.phase := by
  obtain ⟨drain, gather⟩ := rows
  rcases uses with phase | phase
  · have row := drain phase
    split_ifs at row
    all_goals exact phaseRow_of phase row.1 (by decide)
  · have row := gather phase
    split_ifs at row
    all_goals exact phaseRow_of phase row.1 (by decide)

/-- R221: every phase with a port that can fail has a row to IDLE. -/
theorem phaseRow_ioError
    (phase : s.phase ∈ [Phase.dHdr, Phase.dPad, Phase.dFill, Phase.eHdr, Phase.eEmit])
    (failed : t.isErr .ioError) : PhaseRow s.phase t.phase := by
  rw [failed.1]
  revert phase
  generalize s.phase = p
  revert p
  decide

theorem State.Inv.sequencerRows_phaseRow (inv : s.Inv) (busy : s.phase ≠ Phase.idle)
    (rows : s.sequencerRows t) : PhaseRow s.phase t.phase := by
  obtain ⟨inRows, outRows, raster⟩ := rows
  have legal := inv.phaseLegal
  have phases : (s.phase = Phase.dHdr ∨ s.phase = Phase.dPad ∨ s.phase = Phase.dFill) ∨
      (s.phase = Phase.eHdr ∨ s.phase = Phase.eEmit) ∨
      s.phase = Phase.dDrain ∨ s.phase = Phase.eGather := by
    clear inRows outRows raster
    bv_omega
  rcases phases with takes | sends | uses
  · have row := inRows takes
    split at row
    · exact State.byteRows_phaseRow takes row
    · exact phaseRow_ioError (by simp; tauto) row
  · have row := outRows sends
    split at row
    · exact State.okRows_phaseRow sends row
    · exact phaseRow_ioError (by simp; tauto) row
  · exact State.rasterRows_phaseRow uses raster

/-- R250: with `rst` every phase leads to IDLE; only that of E_GATHER has no row of its own. -/
theorem State.Inv.phaseRow_of_rst (inv : s.Inv) (reset : t.AtReset) :
    PhaseRow s.phase t.phase ∨ (s.phase = Phase.eGather ∧ t.phase = Phase.idle) := by
  rw [reset.result.1]
  have legal := inv.phaseLegal
  revert legal
  generalize s.phase = p
  revert p
  decide

end

/-- Settles O47: the move decides which rows apply, and the rows tell the pair of phases. -/
theorem phaseTransitions : Obligations.PhaseTransitions := by
  unfold Obligations.PhaseTransitions
  intro s t inv h
  by_cases assert : s.turns.head? = some (.host .rstAssert)
  · obtain ⟨reset, asserted⟩ := step_rstAssert assert h
    rw [if_pos assert]
    refine ⟨fun changed => ?_, reset⟩
    rcases inv.phaseRow_of_rst reset with row | ⟨gather, idle⟩
    · exact .inl (row.resolve_left changed)
    · exact .inr ⟨gather, idle, asserted⟩
  rw [if_neg assert]
  by_cases decode : s.rst = false ∧ s.phase = Phase.idle ∧
      s.turns.head? = some (.host (.csrWrite 0x20#32 .word 1#32))
  · obtain ⟨released, idle, command⟩ := decode
    have row := step_decode_isIn released idle command h
    rw [if_pos ⟨released, idle, command⟩]
    have pair : PhaseRow s.phase t.phase := phaseRow_of idle row.1 (by decide)
    exact ⟨fun changed => .inl (pair.resolve_left changed), row⟩
  rw [if_neg decode]
  by_cases encode : s.rst = false ∧ s.phase = Phase.idle ∧
      s.turns.head? = some (.host (.csrWrite 0x20#32 .word 2#32))
  · obtain ⟨released, idle, command⟩ := encode
    have rows := step_encode_rows released idle command h
    rw [if_pos ⟨released, idle, command⟩]
    have pair : PhaseRow s.phase t.phase := by
      rcases State.encodeRows_phase rows with target | target
      all_goals exact phaseRow_of idle target (by decide)
    exact ⟨fun changed => .inl (pair.resolve_left changed), rows⟩
  rw [if_neg encode]
  by_cases sequencer : s.rst = false ∧ s.phase ≠ Phase.idle ∧ s.turns.head? = some .sequencer
  · obtain ⟨released, busy, turn⟩ := sequencer
    obtain ⟨rest, moves⟩ := List.head?_eq_some_iff.mp turn
    obtain ⟨i, code, run⟩ := step_sequencer_cases moves released busy h
    have rows : s.sequencerRows t := inv.popTurn.exec_rows code run
    rw [if_pos ⟨released, busy, turn⟩]
    have pair := inv.sequencerRows_phaseRow busy rows
    exact ⟨fun changed => .inl (pair.resolve_left changed), rows⟩
  rw [if_neg sequencer]
  have same := step_control_of_other h assert decode encode sequencer
  simp only [State.control, Prod.mk.injEq] at same
  exact ⟨fun changed => absurd same.1 changed, same⟩

end Sys2Proof.Machine
end

section
/-! PROOF. What the runs of DECODE and of ENCODE share: the moves that spare them, the blocks in
file order, and BLK (R12, R179, R181, R182, R257, R258). -/

namespace Sys2Proof.Machine

section
variable {s t : State}

/-! ### A step of an operation that the moves spare -/

theorem head_spared {spares : Turn → Bool} {turn : Turn} (spared : s.turns.all spares = true)
    (head : s.turns.head? = some turn) : spares turn = true :=
  List.all_eq_true.mp spared turn (List.mem_of_mem_head? head)

/-- R55: what the sink has accepted is no more than before if no transfer was made. -/
theorem State.NoTransferTo.outBytes (record : s.NoTransferTo t) : t.outBytes = s.outBytes := by
  obtain ⟨new, grown, noTransfer⟩ := record
  have noByte : new.reverse.filterMap Event.outByte = [] := by
    refine List.filterMap_eq_nil_iff.mpr fun e seen => ?_
    have := noTransfer e (List.mem_reverse.mp seen)
    cases e with
    | outOk b => cases this
    | _ => rfl
  rw [State.outBytes, State.outBytes, grown, List.reverse_append, List.filterMap_append, noByte,
    List.append_nil]

/-- R257, R258: a move that spares a running DECODE, or the operation of its phase. -/
theorem step_decode_cases (busy : s.phase ≠ Phase.idle)
    (spared : s.turns.all Turn.sparesDecode = true) (h : step s = .next t) :
    (∃ i, encode i = .phase s.phase ∧ exec i s.popTurn = .next t) ∨
    t = { s with turns := t.turns, trace := t.trace, rst := t.rst, sink := t.sink } := by
  rcases step_busy_cases busy h with assert | run | moved
  · cases head_spared spared assert
  · exact .inl run
  · have source : t.source = s.source := moved.source.resolve_right fun ⟨_, head⟩ =>
      nomatch head_spared spared head
    have raster : t.raster = s.raster := moved.raster.resolve_right fun ⟨_, _, _, head⟩ =>
      nomatch head_spared spared head
    have block := moved.block
    rw [source, raster] at block
    exact .inr block

/-- R257, R258: a move that spares a running ENCODE, or the operation of its phase. -/
theorem step_encode_cases (busy : s.phase ≠ Phase.idle)
    (spared : s.turns.all Turn.sparesEncode = true) (h : step s = .next t) :
    (∃ i, encode i = .phase s.phase ∧ exec i s.popTurn = .next t) ∨
    (t = { s with turns := t.turns, trace := t.trace, rst := t.rst, source := t.source } ∧
      t.outBytes = s.outBytes) := by
  rcases step_busy_cases busy h with assert | run | moved
  · cases head_spared spared assert
  · exact .inl run
  · have sink : t.sink = s.sink := moved.sink.resolve_right fun ⟨_, head⟩ =>
      nomatch head_spared spared head
    have raster : t.raster = s.raster := moved.raster.resolve_right fun ⟨_, _, _, head⟩ =>
      nomatch head_spared spared head
    have block := moved.block
    rw [sink, raster] at block
    exact .inr ⟨block, moved.record.outBytes⟩

/-- R31: a PHASE code stands for one operation. -/
theorem instr_of_phase {i j : Instr} {p : BitVec 4} (code : encode i = .phase s.phase)
    (phase : s.phase = p) (decodes : decodeCode (.phase p) = .ok j) : i = j := by
  rw [← phase, ← code, decodeCode_encode] at decodes
  exact Except.ok.inj decodes

/-! ### The blocks in file order -/

/-- The number of the block at hand. -/
def State.group (s : State) : Nat := groupOf s.width s.height s.bX s.bY

theorem State.InBlocks.group_lt (blocks : s.InBlocks) :
    s.group < s.height.toNat / 8 * (s.width.toNat / 8) :=
  groupOf_lt blocks.bxLt blocks.byLt

theorem State.InBlocks.payloadSize_eq (blocks : s.InBlocks) :
    s.payloadSize = 64 * (s.height.toNat / 8 * (s.width.toNat / 8)) :=
  pixels_eq_blocks blocks.widthMul blocks.heightMul

/-- R181, for an image of multiples of 8: it is empty, or the first block is number 0. -/
theorem State.startBlocks_group (format : resolve s.fmtid = some .a8)
    (width : s.width.toNat % 8 = 0) (height : s.height.toNat % 8 = 0) (p : BitVec 4) :
    (s.payloadSize = 0 ∧ s.startBlocks p = s.finish) ∨
    (∃ bX bY, s.startBlocks p = { s with bX := bX, bY := bY, idx := 0#6, phase := p } ∧
      (s.startBlocks p).InBlocks ∧ (s.startBlocks p).group = 0) := by
  rcases s.startBlocks_cases p with ⟨empty, finish⟩ | ⟨wide, high, start, bY⟩
  · refine .inl ⟨?_, finish⟩
    rw [State.payloadSize, pixels_eq_blocks width height]
    rcases empty with none | none
    all_goals simp [none]
  · refine .inr ⟨_, _, start, ?_⟩
    rw [start]
    refine ⟨⟨width, height, by simpa using wide, ?_, format⟩, ?_⟩
    · simp only [bY]
      omega
    · simp only [State.group, groupOf_eq, bY, BitVec.toNat_ofNat, Nat.sub_self, Nat.zero_mul,
        Nat.zero_mod, Nat.add_zero]

/-- R182, R179: the next block has the next number, or the block was the last. -/
theorem State.InBlocks.nextBlock_group (blocks : s.InBlocks) (p : BitVec 4) :
    (∃ bX bY, s.nextBlock p = { s with idx := 0#6, bX := bX, bY := bY, phase := p } ∧
      (s.nextBlock p).InBlocks ∧ (s.nextBlock p).group = s.group + 1) ∨
    (s.nextBlock p = { s with idx := 0#6, phase := Phase.idle, done := true } ∧
      64 * s.group + 64 = s.payloadSize) := by
  obtain ⟨widthMul, heightMul, bxLt, byLt, format⟩ := blocks
  rcases s.nextBlock_cases p with ⟨more, bX, right⟩ | ⟨last, more, bY, up⟩ | ⟨last, top, finish⟩
  · refine .inl ⟨_, _, right, ?_⟩
    rw [right]
    refine ⟨⟨widthMul, heightMul, by simpa only [bX] using more, byLt, format⟩, ?_⟩
    simp only [State.group, groupOf_eq, bX]
    omega
  · refine .inl ⟨_, _, up, ?_⟩
    rw [up]
    refine ⟨⟨widthMul, heightMul, Nat.zero_lt_of_lt bxLt, ?_, format⟩, ?_⟩
    · simp only [bY]
      omega
    · have row : s.height.toNat / 8 - 1 - (s.bY.toNat - 1) =
          s.height.toNat / 8 - 1 - s.bY.toNat + 1 := by omega
      simp only [State.group, groupOf_eq, bY, BitVec.toNat_ofNat, row, Nat.succ_mul]
      omega
  · refine .inr ⟨finish, ?_⟩
    have rows : s.height.toNat / 8 * (s.width.toNat / 8) =
        (s.height.toNat / 8 - 1) * (s.width.toNat / 8) + s.width.toNat / 8 := by
      rw [← Nat.succ_mul, Nat.succ_eq_add_one, Nat.sub_add_cancel (by omega)]
    rw [State.payloadSize, pixels_eq_blocks widthMul heightMul, rows, State.group, groupOf_eq, top,
      Nat.sub_zero]
    omega

end

/-! ### BLK -/

/-- The first `n` bytes of BLK are these (R37). -/
def BlkHolds (blk : Vector Byte 64) (bytes : Nat → Byte) (n : Nat) : Prop :=
  ∀ i : BitVec 6, i.toNat < n → blkGet blk i = bytes i.toNat

section
variable {blk : Vector Byte 64} {bytes : Nat → Byte} {idx : BitVec 6}

theorem blkHolds_zero (blk : Vector Byte 64) (bytes : Nat → Byte) : BlkHolds blk bytes 0 :=
  fun _ none => absurd none (Nat.not_lt_zero _)

/-- R190, R205: the next byte lands behind the others. -/
theorem BlkHolds.blkSet (holds : BlkHolds blk bytes idx.toNat) :
    BlkHolds (blkSet blk idx (bytes idx.toNat)) bytes (idx.toNat + 1) := by
  intro i hi
  rw [blkGet_blkSet]
  split
  · next same => rw [same]
  · next other =>
    refine holds i ?_
    rw [← BitVec.toNat_inj] at other
    omega

end

end Sys2Proof.Machine
end

section
/-! PROOF. What holds at every moment of a DECODE of a file (R125, R131 to R143, R190 to R193): how
much of the file is consumed, and what of it stands in the registers, in BLK and in the raster. -/

namespace Sys2Proof.Machine

/-! ### The byte source -/

/-- The first `c` bytes of the file have been taken (R52, R53). -/
def State.Consumed (file : List Byte) (s : State) (c : Nat) : Prop :=
  c ≤ file.length ∧ s.source = (file.drop c).map .byte

section
variable {file : List Byte} {s : State} {c : Nat} {rest : List InAnswer}

/-- The next answer is the next byte of the file. -/
theorem State.Consumed.byte (consumed : s.Consumed file c) {b : Byte}
    (source : s.source = .byte b :: rest) :
    b = file.getD c 0 ∧ c + 1 ≤ file.length ∧ rest = (file.drop (c + 1)).map .byte := by
  obtain ⟨-, left⟩ := consumed
  have more : c < file.length := by
    by_contra none
    rw [List.drop_eq_nil_of_le (by omega), source] at left
    cases left
  rw [List.drop_eq_getElem_cons more, source, List.map_cons] at left
  obtain ⟨same, tail⟩ := List.cons.inj left
  refine ⟨?_, more, tail⟩
  rw [InAnswer.byte.inj same, List.getD_eq_getElem _ _ more]

/-- `Fail` is the end of the file. -/
theorem State.Consumed.inFail (consumed : s.Consumed file c)
    (source : s.source = .fail :: rest ∨ s.source = [] ∧ rest = []) : file.length = c := by
  obtain ⟨within, left⟩ := consumed
  by_contra some
  rw [List.drop_eq_getElem_cons (by omega), List.map_cons] at left
  rcases source with source | ⟨source, -⟩
  all_goals
    rw [source] at left
    cases left

end

/-! ### ACC -/

/-- The first `n` bytes of ACC are these (R33). -/
def AccHolds (acc : Word) (bytes : Nat → Byte) (n : Nat) : Prop :=
  ∀ j < n, byteOf acc j = bytes j

theorem AccHolds.insertByte {acc : Word} {bytes : Nat → Byte} {n : Nat}
    (holds : AccHolds acc bytes n) (room : n < 4) : AccHolds (insertByte acc n (bytes n)) bytes (n + 1) := by
  intro j hj
  rw [accumulatorTakesOneByte acc (bytes n) n j room (by omega)]
  split
  · next same => rw [same]
  · next other => exact holds j (by omega)

theorem u32_byteOf (v : Word) :
    u32 (byteOf v 0) (byteOf v 1) (byteOf v 2) (byteOf v 3) = v := by
  ext i hi
  simp [u32, byteOf]
  grind

/-- Four bytes of the file in ACC are a field of it (R82). -/
theorem AccHolds.eq_fileField {acc : Word} {file : List Byte} {f : Nat}
    (holds : AccHolds acc (fun j => file.getD (f + j) 0) 4) : acc = fileField file f := by
  rw [← u32_byteOf acc, holds 0 (by omega), holds 1 (by omega), holds 2 (by omega),
    holds 3 (by omega)]
  rfl

/-! ### The raster -/

section
variable (file : List Byte) (before : Memory) (s : State)

/-- The pixels of the first `n` payload bytes are written, and no other pixel is (R58, R192). -/
structure State.PixelsUpTo (n : Nat) : Prop where
  written : ∀ x y, s.inside x y → payloadPos s.width s.height x y < n → s.raster.pixel x y =
    unpackA8 (file.getD (s.payoff.toNat + payloadPos s.width s.height x y) 0)
  untouched : ∀ x y, ¬(s.inside x y ∧ payloadPos s.width s.height x y < n) →
    s.raster.pixel x y = before.pixel x y

/-- The registers of the header's first `k` bytes have the values of the file, and nothing has been
written to the raster (R132 to R138). -/
structure State.HeaderFields (k : Nat) : Prop where
  phase : s.phase = Phase.dHdr
  notDone : s.done = false
  noError : s.errcode = 0#4
  raster : s.raster = before
  payoff : s.payoff = 0#32
  magic : 4 ≤ k → s.magic = Config.magicWord
  format : 8 ≤ k → s.fmtid = 8#32
  width : 12 ≤ k → s.width = fileField file 8
  height : 16 ≤ k → s.height = fileField file 12

/-- The header has been read whole and its checks have passed (R132, R133, R139, R140). -/
structure State.HeaderMatches : Prop where
  notDone : s.done = false
  noError : s.errcode = 0#4
  fixedFields : s.magic = Config.magicWord ∧ s.fmtid = 8#32 ∧ s.pixbits = 8#32
  fields : s.width = fileField file 8 ∧ s.height = fileField file 12 ∧ s.payoff = fileField file 24
  offset : 28 ≤ s.payoff.toNat

/-- How many blocks a DECODE that an error ended has written: those the file holds whole after
IOError, none after another error (R191, R230). -/
def State.wholeBlocks : Nat :=
  if s.errcode = Error.ioError.code then (file.length - s.payoff.toNat) / 64 else 0

/-- Payload byte `k` of the file. -/
def State.payloadIn (k : Nat) : Byte := file.getD (s.payoff.toNat + k) 0

/-- A DECODE of the file, in each of its phases, at its good end, and at an error. -/
inductive DecodeProgress : Prop where
  | header (fields : s.HeaderFields file before s.hcnt.toNat) (count : s.hcnt.toNat ≤ 27)
      (consumed : s.Consumed file s.hcnt.toNat)
      (acc : AccHolds s.acc (fun j => file.getD (4 * (s.hcnt.toNat / 4) + j) 0) (s.hcnt.toNat % 4))
  | padding (phase : s.phase = Phase.dPad) (header : s.HeaderMatches file) (more : 1 ≤ s.skip.toNat)
      (within : s.skip.toNat ≤ s.payoff.toNat)
      (consumed : s.Consumed file (s.payoff.toNat - s.skip.toNat)) (raster : s.raster = before)
  | fill (phase : s.phase = Phase.dFill) (header : s.HeaderMatches file) (blocks : s.InBlocks)
      (consumed : s.Consumed file (s.payoff.toNat + (64 * s.group + s.idx.toNat)))
      (blk : BlkHolds s.blk (fun j => s.payloadIn file (64 * s.group + j)) s.idx.toNat)
      (pixels : s.PixelsUpTo file before (64 * s.group))
  | drain (phase : s.phase = Phase.dDrain) (header : s.HeaderMatches file) (blocks : s.InBlocks)
      (consumed : s.Consumed file (s.payoff.toNat + (64 * s.group + 64)))
      (blk : BlkHolds s.blk (fun j => s.payloadIn file (64 * s.group + j)) 64)
      (pixels : s.PixelsUpTo file before (64 * s.group + s.idx.toNat))
  | ended (well : DecodedWell file before s)
  | failed (phase : s.phase = Phase.idle) (notDone : s.done = false)
      (pixels : s.PixelsUpTo file before (64 * s.wholeBlocks file))

end

section
variable {file : List Byte} {before : Memory} {s t : State}

theorem State.pixelsUpTo_zero (raster : s.raster = before) : s.PixelsUpTo file before 0 where
  written := fun _ _ _ none => absurd none (Nat.not_lt_zero _)
  untouched := fun _ _ _ => by rw [raster]

/-- R192: the pixel of the next payload byte is written. -/
theorem State.PixelsUpTo.rasWrite (blocks : s.InBlocks)
    (pixels : s.PixelsUpTo file before (64 * s.group + s.idx.toNat)) :
    (s.rasWrite (pixelAt s.bX s.bY s.idx).1 (pixelAt s.bX s.bY s.idx).2
      (unpackA8 (s.payloadIn file (64 * s.group + s.idx.toNat)))).PixelsUpTo file before
      (64 * s.group + s.idx.toNat + 1) := by
  have position := payloadPos_pixelAt s.width s.height s.bX s.bY s.idx
  have inside := (pixelAt_inside_iff blocks.widthMul blocks.heightMul s.bX s.bY s.idx).mpr
    ⟨blocks.bxLt, blocks.byLt⟩
  generalize pixelAt s.bX s.bY s.idx = xy at position inside
  obtain ⟨x', y'⟩ := xy
  simp only at position inside
  have other {x y : Word} (hx : x.toNat < s.width.toNat ∧ y.toNat < s.height.toNat)
      (ne : ¬(x = x' ∧ y = y')) :
      payloadPos s.width s.height x y ≠ 64 * s.group + s.idx.toNat := fun same =>
    ne (payloadPos_inj blocks.widthMul blocks.heightMul hx.1 hx.2 inside.1 inside.2
      (same.trans position.symm))
  constructor
  · intro x y within upTo
    by_cases new : x = x' ∧ y = y'
    · obtain ⟨rfl, rfl⟩ := new
      simp only [State.rasWrite_raster, Memory.pixel_setPixel_same]
      simp only [State.rasWrite_width, State.rasWrite_height, State.rasWrite_payoff, position]
      rfl
    · rw [State.rasWrite_raster, Memory.pixel_setPixel_ne _ _ new]
      refine pixels.written x y within ?_
      have := other within new
      simp only [State.rasWrite_width, State.rasWrite_height] at upTo
      omega
  · intro x y notYet
    have new : ¬(x = x' ∧ y = y') := by
      rintro ⟨rfl, rfl⟩
      refine notYet ⟨inside, ?_⟩
      simp only [State.rasWrite_width, State.rasWrite_height, position]
      exact Nat.lt_succ_self _
    rw [State.rasWrite_raster, Memory.pixel_setPixel_ne _ _ new]
    exact pixels.untouched x y fun ⟨within, upTo⟩ => notYet ⟨within, Nat.lt_succ_of_lt upTo⟩

/-! ### How a DECODE ends -/

theorem Error.code_injective {e e' : Error} (same : e.code = e'.code) : e = e' := by
  cases e <;> cases e' <;> simp [Error.code] at same ⊢

/-- R228: an error before the first block. -/
theorem DecodeProgress.raise (raster : s.raster = before) (notDone : s.done = false) (e : Error)
    (noBlock : e ≠ .ioError) : DecodeProgress file before (s.raise e) := by
  have none : (s.raise e).wholeBlocks file = 0 :=
    if_neg fun same => noBlock (Error.code_injective same)
  refine .failed rfl notDone ?_
  rw [none]
  exact State.pixelsUpTo_zero raster

/-- R221, R230: the end of the file, after its last whole block. -/
theorem DecodeProgress.ioError (notDone : s.done = false) {n : Nat}
    (whole : (file.length - s.payoff.toNat) / 64 = n)
    (pixels : s.PixelsUpTo file before (64 * n)) :
    DecodeProgress file before (s.raise .ioError) := by
  have blocks : (s.raise .ioError).wholeBlocks file = n := (if_pos rfl).trans whole
  refine .failed rfl notDone ?_
  rw [blocks]
  exact { pixels with }

/-- R122, R125: what the good end leaves. -/
theorem State.HeaderMatches.finish_decodedWell (header : s.HeaderMatches file)
    (width : s.width.toNat % 8 = 0) (height : s.height.toNat % 8 = 0)
    (consumed : s.Consumed file (s.payoff.toNat + s.payloadSize))
    (pixels : s.PixelsUpTo file before s.payloadSize) : DecodedWell file before s.finish where
  ended := ⟨rfl, rfl, header.noError⟩
  fixedFields := header.fixedFields
  fields := header.fields
  checked := ⟨header.offset, width, height⟩
  pixels := fun x y inside =>
    pixels.written x y inside (payloadPos_lt width height inside.1 inside.2)
  outside := fun x y outside => pixels.untouched x y fun upTo => outside upTo.1
  consumed := consumed

/-! ### The padding and the hand-over to the blocks -/

/-- R141, R181: the payload is at hand. -/
theorem State.HeaderMatches.paddingComplete_progress (header : s.HeaderMatches file)
    (consumed : s.Consumed file s.payoff.toNat) (raster : s.raster = before) :
    DecodeProgress file before s.paddingComplete := by
  rcases s.paddingComplete_cases with ⟨-, raised⟩ | ⟨-, -, raised⟩ | ⟨width, height, start⟩
  · rw [raised]
    exact .raise raster header.notDone _ (by decide)
  · rw [raised]
    exact .raise raster header.notDone _ (by decide)
  have format := (resolve_some _ .a8).mpr header.fixedFields.2.1
  have none : s.PixelsUpTo file before 0 := State.pixelsUpTo_zero raster
  rw [start]
  rcases State.startBlocks_group format width height Phase.dFill with
    ⟨empty, finish⟩ | ⟨bX, bY, first, blocks, group⟩
  · rw [finish]
    refine .ended (header.finish_decodedWell width height ?_ ?_)
    · rwa [empty]
    · rwa [empty]
  · rw [first] at blocks group ⊢
    refine .fill rfl { header with } blocks ?_ ?_ ?_
    all_goals rw [group]
    · exact consumed
    · exact blkHolds_zero _ _
    · exact { none with }

/-- R143: a padding byte. -/
theorem DecodeProgress.paddingByteIn (phase : s.phase = Phase.dPad) (header : s.HeaderMatches file)
    (more : 1 ≤ s.skip.toNat) (within : s.skip.toNat ≤ s.payoff.toNat)
    (consumed : s.Consumed file (s.payoff.toNat - s.skip.toNat + 1)) (raster : s.raster = before) :
    DecodeProgress file before (paddingByteIn s) := by
  have counted : (s.skip - 1#32).toNat = s.skip.toNat - 1 := by bv_omega
  have position : s.payoff.toNat - s.skip.toNat + 1 =
      s.payoff.toNat - (s.skip - 1#32).toNat := by omega
  rw [position] at consumed
  unfold Machine.paddingByteIn
  simp only
  split
  · next last =>
    rw [last] at consumed
    exact State.HeaderMatches.paddingComplete_progress { header with } consumed raster
  · next left =>
    refine .padding phase { header with } ?_ ?_ consumed raster
    · simp only [← BitVec.toNat_inj, counted] at left ⊢
      simp only [BitVec.toNat_ofNat] at left
      omega
    · simp only [counted]
      omega

/-! ### The header -/

/-- How a field rule leads on from byte `k` of the header; byte 27 ends it. -/
def Flow.Decodes (file : List Byte) (before : Memory) (k : Nat) : Flow → Prop
  | .goesOn s =>
    if k < 27 then s.HeaderFields file before (k + 1) ∧ s.Consumed file (k + 1)
    else DecodeProgress file before s
  | .raised s => DecodeProgress file before s

theorem State.HeaderFields.goesOn {k : Nat} (fields : s.HeaderFields file before (k + 1))
    (consumed : s.Consumed file (k + 1)) (more : k < 27) :
    (Flow.goesOn s).Decodes file before k := by
  rw [Flow.Decodes, if_pos more]
  exact ⟨fields, consumed⟩

/-- R132. -/
theorem State.HeaderFields.fieldMagic_decodes (fields : s.HeaderFields file before 3)
    (consumed : s.Consumed file 4) (v : Word) : (fieldMagic v s).Decodes file before 3 := by
  unfold fieldMagic
  split
  · next magic =>
    refine State.HeaderFields.goesOn ?_ consumed (by omega)
    exact { fields with
      magic := fun _ => magic, format := by omega, width := by omega, height := by omega }
  · exact DecodeProgress.raise (s := { s with magic := v }) fields.raster fields.notDone _
      (by decide)

/-- R133. -/
theorem State.HeaderFields.fieldFmtid_decodes (fields : s.HeaderFields file before 7)
    (consumed : s.Consumed file 8) (v : Word) : (fieldFmtid v s).Decodes file before 7 := by
  unfold fieldFmtid
  split
  · next variant resolves =>
    refine State.HeaderFields.goesOn ?_ consumed (by omega)
    exact { fields with
      magic := fun _ => fields.magic (by omega), format := fun _ => (resolve_some _ _).mp resolves
      width := by omega, height := by omega }
  · exact DecodeProgress.raise (s := { s with fmtid := v }) fields.raster fields.notDone _
      (by decide)

/-- R138 to R140. -/
theorem State.HeaderFields.fieldPayoff_decodes (fields : s.HeaderFields file before 27)
    (consumed : s.Consumed file 28) {v : Word} (value : v = fileField file 24) :
    (fieldPayoff v s).Decodes file before 27 := by
  have format := fields.format (by omega)
  have bits : declaredBits s.fmtid = 8#32 := by rw [format, declaredBits_a8]
  rw [fieldPayoff_eq, bits]
  split
  · exact DecodeProgress.raise (s := { s with payoff := v }) fields.raster fields.notDone _
      (by decide)
  next length =>
  split
  · exact DecodeProgress.raise (s := { s with payoff := v }) fields.raster fields.notDone _
      (by decide)
  next offset =>
  have header (skip : Word) (p : BitVec 4) : State.HeaderMatches file
      { s with payoff := v, skip := skip, phase := p } :=
    { notDone := fields.notDone, noError := fields.noError
      fixedFields := ⟨fields.magic (by omega), format, not_not.mp length⟩
      fields := ⟨fields.width (by omega), fields.height (by omega), value⟩
      offset := not_lt.mp offset }
  split
  · next padding =>
    have skip : (v - 28#32).toNat = v.toNat - 28 := by bv_omega
    refine DecodeProgress.padding rfl (header _ _) ?_ ?_ ?_ fields.raster
    · simp only [skip]
      omega
    · simp only [skip]
      omega
    · simp only [skip, Nat.sub_sub_self (not_lt.mp offset)]
      exact consumed
  · next none =>
    have start : v.toNat = 28 := by omega
    refine (header _ s.phase).paddingComplete_progress ?_ fields.raster
    simp only [start]
    exact consumed

end

end Sys2Proof.Machine
end

section
/-! PROOF. The steps of a DECODE of a file, and what its good end guarantees (R125). -/

namespace Sys2Proof.Machine

section
variable {file : List Byte} {before : Memory} {s t : State}

/-! ### The header steps -/

/-- R131 to R138: the last byte of a field, which is then whole in ACC. -/
theorem State.HeaderFields.completeField_decodes {k : Nat} (fields : s.HeaderFields file before k)
    (consumed : s.Consumed file (k + 1)) (last : k % 4 = 3) (count : k ≤ 27) {v : Word}
    (value : v = fileField file (4 * (k / 4))) :
    (completeField (k / 4) v s).Decodes file before k := by
  unfold completeField
  split
  · next field =>
    obtain rfl : k = 3 := by omega
    exact fields.fieldMagic_decodes consumed v
  split
  · next field =>
    obtain rfl : k = 7 := by omega
    exact fields.fieldFmtid_decodes consumed v
  have later (newer : k ≠ 11 ∧ k ≠ 15) : s.HeaderFields file before (k + 1) :=
    { fields with
      magic := fun _ => fields.magic (by omega), format := fun _ => fields.format (by omega)
      width := fun _ => fields.width (by omega), height := fun _ => fields.height (by omega) }
  split
  · next field =>
    obtain rfl : k = 11 := by omega
    refine State.HeaderFields.goesOn ?_ consumed (by omega)
    exact { fields with
      magic := fun _ => fields.magic (by omega), format := fun _ => fields.format (by omega)
      width := fun _ => value, height := by omega }
  split
  · next field =>
    obtain rfl : k = 15 := by omega
    refine State.HeaderFields.goesOn ?_ consumed (by omega)
    exact { fields with
      magic := fun _ => fields.magic (by omega), format := fun _ => fields.format (by omega)
      width := fun _ => fields.width (by omega), height := fun _ => value }
  split
  · exact State.HeaderFields.goesOn { later (by omega) with } consumed (by omega)
  split
  · next field =>
    obtain rfl : k = 27 := by omega
    exact fields.fieldPayoff_decodes consumed value
  · exact (later (by omega)).goesOn consumed (by omega)

/-- ACC is no register of the header. -/
theorem State.HeaderFields.withAcc {k : Nat} (fields : s.HeaderFields file before k) (acc : Word) :
    State.HeaderFields file before { s with acc := acc } k :=
  { fields with }

/-- R131: HCNT counts the byte unless the header has ended. -/
theorem countHeaderByte_progress {k : BitVec 7} {f : Flow} (flow : f.Decodes file before k.toNat)
    (acc : AccHolds f.state.acc (fun j => file.getD (4 * ((k.toNat + 1) / 4) + j) 0)
      ((k.toNat + 1) % 4)) : DecodeProgress file before (countHeaderByte k f) := by
  cases f with
  | raised s => exact flow
  | goesOn s =>
    rw [Flow.Decodes] at flow
    rw [countHeaderByte]
    split
    · next more =>
      obtain ⟨fields, consumed⟩ := (if_pos more).mp flow
      have counted := hcnt_succ k (by omega)
      refine .header ?_ ?_ ?_ ?_
      all_goals simp only [counted]
      · exact { fields with }
      · omega
      · exact consumed
      · exact acc
    · next last => exact (if_neg last).mp flow

/-- R131: the next byte of the header, inside a field or at its end. -/
theorem State.HeaderFields.headerByteIn_progress
    (fields : s.HeaderFields file before s.hcnt.toNat) (count : s.hcnt.toNat ≤ 27)
    (consumed : s.Consumed file (s.hcnt.toNat + 1))
    (acc : AccHolds s.acc (fun j => file.getD (4 * (s.hcnt.toNat / 4) + j) 0) (s.hcnt.toNat % 4)) :
    DecodeProgress file before (headerByteIn (file.getD s.hcnt.toNat 0) s) := by
  have acc := acc.insertByte (Nat.mod_lt _ (by omega))
  simp only [Nat.div_add_mod] at acc
  refine countHeaderByte_progress ?_ ?_
  all_goals split
  · next last =>
    have collected := fields.withAcc
      (insertByte s.acc (s.hcnt.toNat % 4) (file.getD s.hcnt.toNat 0))
    refine collected.completeField_decodes consumed last count ?_
    rw [last] at acc
    rw [last]
    exact acc.eq_fileField
  · next inside =>
    refine State.HeaderFields.goesOn ?_ consumed (by omega)
    exact { fields with
      magic := fun _ => fields.magic (by omega), format := fun _ => fields.format (by omega)
      width := fun _ => fields.width (by omega), height := fun _ => fields.height (by omega) }
  · next last =>
    rw [show (s.hcnt.toNat + 1) % 4 = 0 by omega]
    exact fun j none => absurd none (Nat.not_lt_zero _)
  · next inside =>
    rw [show (s.hcnt.toNat + 1) / 4 = s.hcnt.toNat / 4 by omega,
      show (s.hcnt.toNat + 1) % 4 = s.hcnt.toNat % 4 + 1 by omega]
    exact acc

/-! ### The operations of the phases -/

/-- What the agents change while they spare the DECODE is no part of it. -/
theorem DecodeProgress.withAgents (progress : DecodeProgress file before s) (turns : List Turn)
    (trace : List Event) (rst : Bool) (sink : Sink) :
    DecodeProgress file before
      { s with turns := turns, trace := trace, rst := rst, sink := sink } := by
  cases progress with
  | header fields count consumed acc => exact .header { fields with } count consumed acc
  | padding phase header more within consumed raster =>
    exact .padding phase { header with } more within consumed raster
  | fill phase header blocks consumed blk pixels =>
    exact .fill phase { header with } { blocks with } consumed blk { pixels with }
  | drain phase header blocks consumed blk pixels =>
    exact .drain phase { header with } { blocks with } consumed blk { pixels with }
  | ended well => exact .ended { well with }
  | failed phase notDone pixels => exact .failed phase notDone { pixels with }

/-- STEP.D_HDR. -/
theorem exec_dHdr_progress (fields : s.HeaderFields file before s.hcnt.toNat)
    (count : s.hcnt.toNat ≤ 27) (consumed : s.Consumed file s.hcnt.toNat)
    (acc : AccHolds s.acc (fun j => file.getD (4 * (s.hcnt.toNat / 4) + j) 0) (s.hcnt.toNat % 4))
    (h : exec .stepDHdr s = .next t) : DecodeProgress file before t := by
  rcases exec_in_cases s with ⟨b, rest, source, ok, -, -⟩ | ⟨rest, source, fail, -, -⟩
  · cases ok.symm.trans h
    obtain ⟨rfl, more, left⟩ := consumed.byte source
    exact State.HeaderFields.headerByteIn_progress (s := { s with source := rest, trace := _ })
      { fields with } count ⟨more, left⟩ acc
  · cases fail.symm.trans h
    have length := consumed.inFail source
    refine DecodeProgress.ioError (n := 0) fields.notDone ?_ (State.pixelsUpTo_zero fields.raster)
    rw [length]
    omega

/-- STEP.D_PAD. -/
theorem exec_dPad_progress (phase : s.phase = Phase.dPad) (header : s.HeaderMatches file)
    (more : 1 ≤ s.skip.toNat) (within : s.skip.toNat ≤ s.payoff.toNat)
    (consumed : s.Consumed file (s.payoff.toNat - s.skip.toNat)) (raster : s.raster = before)
    (h : exec .stepDPad s = .next t) : DecodeProgress file before t := by
  rcases exec_in_cases s with ⟨b, rest, source, -, ok, -⟩ | ⟨rest, source, -, fail, -⟩
  · cases ok.symm.trans h
    obtain ⟨-, inFile, left⟩ := consumed.byte source
    exact DecodeProgress.paddingByteIn phase { header with } more within ⟨inFile, left⟩ raster
  · cases fail.symm.trans h
    have length := consumed.inFail source
    refine DecodeProgress.ioError (n := 0) header.notDone ?_ (State.pixelsUpTo_zero raster)
    rw [length]
    simp only
    omega

/-- STEP.D_FILL. -/
theorem exec_dFill_progress (phase : s.phase = Phase.dFill) (header : s.HeaderMatches file)
    (blocks : s.InBlocks)
    (consumed : s.Consumed file (s.payoff.toNat + (64 * s.group + s.idx.toNat)))
    (blk : BlkHolds s.blk (fun j => s.payloadIn file (64 * s.group + j)) s.idx.toNat)
    (pixels : s.PixelsUpTo file before (64 * s.group))
    (h : exec .stepDFill s = .next t) : DecodeProgress file before t := by
  have index := s.idx.isLt
  rcases exec_in_cases s with ⟨b, rest, source, -, -, ok⟩ | ⟨rest, source, -, -, fail⟩
  · cases ok.symm.trans h
    obtain ⟨rfl, inFile, left⟩ := consumed.byte source
    have blk := blk.blkSet
    unfold State.nextInBlock
    split
    · next more =>
      refine .fill phase { header with } { blocks with } ?_ ?_ { pixels with }
      all_goals simp only [idx_succ _ more]
      · exact ⟨inFile, left⟩
      · exact blk
    · next last =>
      have full : s.idx.toNat + 1 = 64 := by
        simp only at last
        omega
      have position : s.payoff.toNat + (64 * s.group + s.idx.toNat) + 1 =
          s.payoff.toNat + (64 * s.group + 64) := by omega
      rw [position] at inFile left
      rw [full] at blk
      refine .drain rfl { header with } { blocks with } ⟨inFile, left⟩ blk ?_
      exact { pixels with }
  · cases fail.symm.trans h
    have length := consumed.inFail source
    refine DecodeProgress.ioError header.notDone ?_ { pixels with }
    change (file.length - s.payoff.toNat) / 64 = s.group
    omega

/-- R192, R182: the pixel is written; the next one follows, or the next block, or the end. -/
theorem State.nextInDrain_progress (phase : s.phase = Phase.dDrain) (header : s.HeaderMatches file)
    (blocks : s.InBlocks) (consumed : s.Consumed file (s.payoff.toNat + (64 * s.group + 64)))
    (blk : BlkHolds s.blk (fun j => s.payloadIn file (64 * s.group + j)) 64)
    (pixels : s.PixelsUpTo file before (64 * s.group + s.idx.toNat + 1)) :
    DecodeProgress file before (s.nextInDrain Phase.dFill) := by
  have index := s.idx.isLt
  unfold State.nextInDrain
  split
  · next more =>
    refine .drain phase { header with } { blocks with } consumed blk ?_
    simp only [idx_succ _ more]
    exact { pixels with }
  next last =>
  have full : 64 * s.group + s.idx.toNat + 1 = 64 * s.group + 64 := by omega
  rw [full] at pixels
  rcases blocks.nextBlock_group Phase.dFill with ⟨bX, bY, another, inside, group⟩ | ⟨finish, whole⟩
  · rw [another] at inside group ⊢
    refine .fill rfl { header with } inside ?_ ?_ ?_
    all_goals rw [group]
    · exact consumed
    · exact blkHolds_zero _ _
    · exact { pixels with }
  · rw [whole] at consumed pixels
    rw [finish]
    exact .ended (State.HeaderMatches.finish_decodedWell (s := { s with idx := 0#6 })
      { header with } blocks.widthMul blocks.heightMul consumed { pixels with })

/-- STEP.D_DRAIN. -/
theorem exec_dDrain_progress (phase : s.phase = Phase.dDrain) (header : s.HeaderMatches file)
    (blocks : s.InBlocks) (consumed : s.Consumed file (s.payoff.toNat + (64 * s.group + 64)))
    (blk : BlkHolds s.blk (fun j => s.payloadIn file (64 * s.group + j)) 64)
    (pixels : s.PixelsUpTo file before (64 * s.group + s.idx.toNat))
    (h : exec .stepDDrain s = .next t) : DecodeProgress file before t := by
  have byte : s.payloadIn file (64 * s.group + s.idx.toNat) = blkGet s.blk s.idx :=
    (blk s.idx s.idx.isLt).symm
  have written := pixels.rasWrite blocks
  rw [byte] at written
  cases h
  exact State.nextInDrain_progress (s := s.rasWrite _ _ _) phase { header with } { blocks with }
    consumed blk written

/-- Every operation of the sequencer carries a DECODE on. -/
theorem DecodeProgress.exec (progress : DecodeProgress file before s) {i : Instr}
    (code : encode i = .phase s.phase) (busy : s.phase ≠ Phase.idle) (h : exec i s = .next t) :
    DecodeProgress file before t := by
  cases progress with
  | header fields count consumed acc =>
    cases instr_of_phase code fields.phase rfl
    exact exec_dHdr_progress fields count consumed acc h
  | padding phase header more within consumed raster =>
    cases instr_of_phase code phase rfl
    exact exec_dPad_progress phase header more within consumed raster h
  | fill phase header blocks consumed blk pixels =>
    cases instr_of_phase code phase rfl
    exact exec_dFill_progress phase header blocks consumed blk pixels h
  | drain phase header blocks consumed blk pixels =>
    cases instr_of_phase code phase rfl
    exact exec_dDrain_progress phase header blocks consumed blk pixels h
  | ended well => exact absurd well.ended.1 busy
  | failed phase => exact absurd phase busy

/-- R111: a DECODE that is taken has consumed nothing. -/
theorem State.startDecode_progress (source : s.source = file.map .byte) :
    DecodeProgress file s.raster s.startDecode := by
  refine .header ⟨rfl, rfl, rfl, rfl, rfl, ?_, ?_, ?_, ?_⟩ ?_ ⟨?_, source⟩ ?_
  all_goals simp [State.startDecode, AccHolds]

/-- Every moment of a DECODE whose stream and raster are left alone. -/
theorem decode_progress {n : Nat} (source : s.source = file.map .byte)
    (run : runOperation Turn.sparesDecode n s.startDecode = some t) :
    DecodeProgress file s.raster t := by
  refine runOperation_induct Turn.sparesDecode (DecodeProgress file s.raster) ?_ n _ t run
    (State.startDecode_progress source)
  intro u u' progress busy spared h
  rcases step_decode_cases busy spared h with ⟨i, code, runs⟩ | moved
  · exact (progress.withAgents u.turns.tail u.trace u.rst u.sink).exec code busy runs
  · rw [moved]
    exact progress.withAgents _ _ _ _

end

/-- Settles O53: of the moments of a DECODE only the good end has DONE = 1. -/
theorem decodeThatEndsWell : Obligations.DecodeThatEndsWell := by
  unfold Obligations.DecodeThatEndsWell
  intro file n s t source run idle done
  cases decode_progress source run with
  | header fields => exact absurd (fields.phase.symm.trans idle) (by decide)
  | padding phase => exact absurd (phase.symm.trans idle) (by decide)
  | fill phase => exact absurd (phase.symm.trans idle) (by decide)
  | drain phase => exact absurd (phase.symm.trans idle) (by decide)
  | ended well => exact well
  | failed phase notDone => exact absurd (notDone.symm.trans done) (by decide)

end Sys2Proof.Machine
end

section
/-! PROOF. What holds at every moment of an ENCODE (R125, R161, R205, R210): the file it is to write,
and how much of it the sink has accepted. -/

namespace Sys2Proof.Machine

/-! ### The file -/

section
variable (s : State)

/-- The raster coordinates of payload byte `k`: index `k mod 64` of the block number `k / 64`, the
blocks counted from the bottom-left one (R86, R179). -/
def State.pixelOf (k : Nat) : Word × Word :=
  pixelAt (BitVec.ofNat 29 (k / 64 % (s.width.toNat / 8)))
    (BitVec.ofNat 29 (s.height.toNat / 8 - 1 - k / 64 / (s.width.toNat / 8))) (BitVec.ofNat 6 k)

/-- Payload byte `k` of the image (R208). -/
def State.payloadByte (k : Nat) : Byte :=
  packA8 (s.raster.pixel (s.pixelOf k).1 (s.pixelOf k).2)

/-- The payload of the image (R86). -/
def State.payload : List Byte := (List.range s.payloadSize).map s.payloadByte

/-- What an ENCODE of the image writes (R93). -/
def State.encodedFile : List Byte := canonicalHeader s.fmtid s.width s.height ++ s.payload

theorem State.payload_length : s.payload.length = s.payloadSize := by simp [State.payload]

theorem canonicalHeader_length (fmtid width height : Word) :
    (canonicalHeader fmtid width height).length = 128 := by simp [canonicalHeader]

theorem State.encodedFile_header {k : Nat} (within : k < 128) :
    s.encodedFile[k]? = some (headerByte s.fmtid s.width s.height k) := by
  rw [State.encodedFile, List.getElem?_append_left (by rwa [canonicalHeader_length])]
  simp [canonicalHeader, within]

theorem State.encodedFile_payload {k : Nat} (within : k < s.payloadSize) :
    s.encodedFile[128 + k]? = some (s.payloadByte k) := by
  rw [State.encodedFile, List.getElem?_append_right (by simp [canonicalHeader_length]),
    canonicalHeader_length, Nat.add_sub_cancel_left]
  simp [State.payload, within]

end

section
variable {s t : State}

/-- R183: the pixel of a block's index. -/
theorem State.pixelOf_block {bx by' : BitVec 29} (hx : bx.toNat < s.width.toNat / 8)
    (hy : by'.toNat < s.height.toNat / 8) (i : BitVec 6) :
    s.pixelOf (64 * groupOf s.width s.height bx by' + i.toNat) = pixelAt bx by' i := by
  obtain ⟨column, row⟩ := groupOf_mod_div (h := s.height) (by' := by') hx
  have index := i.isLt
  have number : (64 * groupOf s.width s.height bx by' + i.toNat) / 64 =
      groupOf s.width s.height bx by' := by omega
  rw [State.pixelOf, number, column, row, Nat.sub_sub_self (by omega), BitVec.ofNat_toNat,
    BitVec.ofNat_toNat, BitVec.setWidth_eq, BitVec.setWidth_eq]
  congr 1
  apply BitVec.eq_of_toNat_eq
  rw [BitVec.toNat_ofNat]
  omega

/-- R125: the payload has every pixel of the image packed at its position. -/
theorem State.hasPayload_payload (width : s.width.toNat % 8 = 0) (height : s.height.toNat % 8 = 0) :
    s.hasPayload s.payload := by
  refine ⟨s.payload_length, fun x y inside => ?_⟩
  have within : payloadPos s.width s.height x y < s.payloadSize :=
    payloadPos_lt width height inside.1 inside.2
  obtain ⟨bx, by', i, pixel, column, row, position⟩ :=
    exists_pixelAt_inside width height inside.1 inside.2
  have here : s.pixelOf (payloadPos s.width s.height x y) = (x, y) := by
    rw [position, State.pixelOf_block column row, pixel]
  simp only [State.payload, List.getElem?_map, List.getElem?_range within, Option.map_some,
    State.payloadByte, here]

/-! ### Progress -/

/-- The sink has accepted the first `n` bytes of the file, after what it had accepted before. -/
def State.Sent (before : List Byte) (s : State) (n : Nat) : Prop :=
  s.outBytes = before ++ s.encodedFile.take n

theorem State.outBytes_outOk (s : State) (sink : Sink) (b : Byte) :
    State.outBytes { s with sink := sink, trace := .outOk b :: s.trace } = s.outBytes ++ [b] := by
  simp [State.outBytes, Event.outByte]

theorem State.outBytes_outFail (s : State) (sink : Sink) (b : Byte) :
    State.outBytes { s with sink := sink, trace := .outFail b :: s.trace } = s.outBytes := by
  simp [State.outBytes, Event.outByte]

/-- One more byte of the file. -/
theorem State.Sent.byte {before : List Byte} {n : Nat} {b : Byte} (sent : s.Sent before n)
    (next : s.encodedFile[n]? = some b) (sink : Sink) :
    State.Sent before { s with sink := sink, trace := .outOk b :: s.trace } (n + 1) := by
  rw [State.Sent, State.outBytes_outOk, sent, List.append_assoc]
  congr 1
  change _ = s.encodedFile.take (n + 1)
  rw [List.take_add_one, next]
  rfl

/-- The registers and the raster an ENCODE reads are as it found them, and have passed its checks
(R59, R112). -/
structure State.Encodes (s0 s : State) : Prop where
  kept : s.fmtid = s0.fmtid ∧ s.width = s0.width ∧ s.height = s0.height ∧ s.raster = s0.raster
  format : resolve s.fmtid = some .a8
  width : s.width.toNat % 8 = 0
  height : s.height.toNat % 8 = 0
  notDone : s.done = false

/-- An ENCODE of the image of `s0`, in each of its phases, at its good end, and at a refused
byte. -/
inductive EncodeProgress (s0 s : State) : Prop where
  | header (phase : s.phase = Phase.eHdr) (image : s0.Encodes s) (noError : s.errcode = 0#4)
      (sent : s.Sent s0.outBytes s.hcnt.toNat)
  | gather (phase : s.phase = Phase.eGather) (image : s0.Encodes s) (noError : s.errcode = 0#4)
      (blocks : s.InBlocks) (sent : s.Sent s0.outBytes (128 + 64 * s.group))
      (blk : BlkHolds s.blk (fun j => s.payloadByte (64 * s.group + j)) s.idx.toNat)
  | emit (phase : s.phase = Phase.eEmit) (image : s0.Encodes s) (noError : s.errcode = 0#4)
      (blocks : s.InBlocks) (sent : s.Sent s0.outBytes (128 + (64 * s.group + s.idx.toNat)))
      (blk : BlkHolds s.blk (fun j => s.payloadByte (64 * s.group + j)) 64)
  | ended (well : EncodedWell s0 s)
  | failed (phase : s.phase = Phase.idle) (image : s0.Encodes s)
      (error : s.errcode = Error.ioError.code)
      (sent : ∃ n < 128 + s.payloadSize, s.Sent s0.outBytes n)

end

section
variable {s0 s t : State}

theorem State.Encodes.encodedFile_eq (image : s0.Encodes s) : s.encodedFile = s0.encodedFile := by
  obtain ⟨fmtid, width, height, raster⟩ := image.kept
  have bytes : s.payloadByte = s0.payloadByte := by
    funext k
    simp only [State.payloadByte, State.pixelOf, width, height, raster]
  simp only [State.encodedFile, State.payload, State.payloadSize, bytes, fmtid, width, height]

/-- R221, R230: a refused byte is no part of the output. -/
theorem EncodeProgress.ioError {n : Nat} (image : s0.Encodes s) (sent : s.Sent s0.outBytes n)
    (within : n < 128 + s.payloadSize) (sink : Sink) (b : Byte) :
    EncodeProgress s0
      (State.raise { s with sink := sink, trace := .outFail b :: s.trace } .ioError) :=
  .failed rfl { image with } rfl ⟨n, within, (s.outBytes_outFail sink b).trans sent⟩

/-- R122, R125: what the good end leaves. -/
theorem State.Encodes.finish_encodedWell (image : s0.Encodes s) (noError : s.errcode = 0#4)
    (sent : s.Sent s0.outBytes (128 + s.payloadSize)) : EncodedWell s0 s.finish where
  ended := ⟨rfl, rfl, noError⟩
  kept := image.kept
  output := by
    obtain ⟨fmtid, width, height, raster⟩ := image.kept
    have length : s.encodedFile.length = 128 + s.payloadSize := by
      rw [State.encodedFile, List.length_append, canonicalHeader_length, State.payload_length]
    rw [State.Sent, ← length, List.take_length, image.encodedFile_eq, State.encodedFile,
      ← List.append_assoc] at sent
    refine ⟨s0.payload, sent, State.hasPayload_payload ?_ ?_⟩
    · exact width ▸ image.width
    · exact height ▸ image.height

/-! ### The operations of the phases -/

/-- R161, R181: the header is out. -/
theorem State.Encodes.startBlocks_progress (image : s0.Encodes s) (noError : s.errcode = 0#4)
    (sent : s.Sent s0.outBytes 128) : EncodeProgress s0 (s.startBlocks Phase.eGather) := by
  rcases State.startBlocks_group image.format image.width image.height Phase.eGather with
    ⟨empty, finish⟩ | ⟨bX, bY, first, blocks, group⟩
  · rw [finish]
    exact .ended (image.finish_encodedWell noError (by rwa [empty]))
  · rw [first] at blocks group ⊢
    refine .gather rfl { image with } noError blocks ?_ (blkHolds_zero _ _)
    rw [group]
    exact sent

/-- STEP.E_HDR. -/
theorem exec_eHdr_progress (phase : s.phase = Phase.eHdr) (image : s0.Encodes s)
    (noError : s.errcode = 0#4) (sent : s.Sent s0.outBytes s.hcnt.toNat)
    (h : exec .stepEHdr s = .next t) : EncodeProgress s0 t := by
  have count := s.hcnt.isLt
  rcases exec_eHdr_cases s with ⟨-, ok⟩ | ⟨-, fail⟩
  · cases ok.symm.trans h
    have sent := sent.byte (s.encodedFile_header count) (Sink.rest s.sink)
    unfold headerByteOut
    split
    · next more =>
      refine .header phase { image with } noError ?_
      simp only [hcnt_succ _ more]
      exact sent
    · next last =>
      have full : s.hcnt.toNat + 1 = 128 := by
        simp only at last
        omega
      rw [full] at sent
      exact State.Encodes.startBlocks_progress { image with } noError sent
  · cases fail.symm.trans h
    exact .ioError image sent (by omega) _ _

/-- R180, R183: the payload byte of an index of the block at hand. -/
theorem State.InBlocks.payloadByte_eq (blocks : s.InBlocks) (i : BitVec 6) :
    s.payloadByte (64 * s.group + i.toNat) =
      packA8 (s.raster.pixel (pixelAt s.bX s.bY i).1 (pixelAt s.bX s.bY i).2) := by
  rw [State.payloadByte, State.group, State.pixelOf_block blocks.bxLt blocks.byLt]

/-- STEP.E_GATHER. -/
theorem exec_eGather_progress (phase : s.phase = Phase.eGather) (image : s0.Encodes s)
    (noError : s.errcode = 0#4) (blocks : s.InBlocks)
    (sent : s.Sent s0.outBytes (128 + 64 * s.group))
    (blk : BlkHolds s.blk (fun j => s.payloadByte (64 * s.group + j)) s.idx.toNat)
    (h : exec .stepEGather s = .next t) : EncodeProgress s0 t := by
  have index := s.idx.isLt
  have silent (x y : Word) : (s.rasRead x y).2.outBytes = s.outBytes := by
    simp [State.outBytes, Event.outByte]
  have gathered := blk.blkSet
  simp only [blocks.payloadByte_eq s.idx] at gathered
  cases h
  unfold State.nextInBlock
  split
  · next more =>
    refine .gather phase { image with } noError { blocks with } ((silent _ _).trans sent) ?_
    simp only [idx_succ _ more]
    exact gathered
  · next last =>
    have full : s.idx.toNat + 1 = 64 := by
      simp only at last
      omega
    rw [full] at gathered
    exact .emit rfl { image with } noError { blocks with } ((silent _ _).trans sent) gathered

/-- R210, R182: the byte is accepted; the next one follows, or the next block, or the end. -/
theorem State.Encodes.nextInDrain_progress (image : s0.Encodes s) (phase : s.phase = Phase.eEmit)
    (noError : s.errcode = 0#4) (blocks : s.InBlocks)
    (sent : s.Sent s0.outBytes (128 + (64 * s.group + s.idx.toNat) + 1))
    (blk : BlkHolds s.blk (fun j => s.payloadByte (64 * s.group + j)) 64) :
    EncodeProgress s0 (s.nextInDrain Phase.eGather) := by
  have index := s.idx.isLt
  unfold State.nextInDrain
  split
  · next more =>
    refine .emit phase { image with } noError { blocks with } ?_ blk
    simp only [idx_succ _ more]
    exact sent
  next last =>
  have full : 128 + (64 * s.group + s.idx.toNat) + 1 = 128 + (64 * s.group + 64) := by omega
  rw [full] at sent
  rcases blocks.nextBlock_group Phase.eGather with
    ⟨bX, bY, another, inside, group⟩ | ⟨finish, whole⟩
  · rw [another] at inside group ⊢
    refine .gather rfl { image with } noError inside ?_ (blkHolds_zero _ _)
    rw [group]
    exact sent
  · rw [whole] at sent
    rw [finish]
    exact .ended (State.Encodes.finish_encodedWell (s := { s with idx := 0#6 }) { image with }
      noError sent)

/-- STEP.E_EMIT. -/
theorem exec_eEmit_progress (phase : s.phase = Phase.eEmit) (image : s0.Encodes s)
    (noError : s.errcode = 0#4) (blocks : s.InBlocks)
    (sent : s.Sent s0.outBytes (128 + (64 * s.group + s.idx.toNat)))
    (blk : BlkHolds s.blk (fun j => s.payloadByte (64 * s.group + j)) 64)
    (h : exec .stepEEmit s = .next t) : EncodeProgress s0 t := by
  have index := s.idx.isLt
  have within : 64 * s.group + s.idx.toNat < s.payloadSize := by
    have := blocks.group_lt
    rw [blocks.payloadSize_eq]
    omega
  have byte : blkGet s.blk s.idx = s.payloadByte (64 * s.group + s.idx.toNat) := blk s.idx index
  have nextByte := s.encodedFile_payload within
  rw [← byte] at nextByte
  rcases exec_eEmit_cases s with ⟨-, ok⟩ | ⟨-, fail⟩
  · cases ok.symm.trans h
    exact State.Encodes.nextInDrain_progress { image with } phase noError { blocks with }
      (sent.byte nextByte _) blk
  · cases fail.symm.trans h
    exact .ioError image sent (by omega) _ _

/-- What the agents change while they spare the ENCODE is no part of it. -/
theorem EncodeProgress.withAgents (progress : EncodeProgress s0 s) (turns : List Turn)
    {trace : List Event} (rst : Bool) (source : List InAnswer)
    (accepted : State.outBytes { s with trace := trace } = s.outBytes) :
    EncodeProgress s0 { s with turns := turns, trace := trace, rst := rst, source := source } := by
  cases progress with
  | header phase image noError sent =>
    exact .header phase { image with } noError (accepted.trans sent)
  | gather phase image noError blocks sent blk =>
    exact .gather phase { image with } noError { blocks with } (accepted.trans sent) blk
  | emit phase image noError blocks sent blk =>
    exact .emit phase { image with } noError { blocks with } (accepted.trans sent) blk
  | ended well =>
    obtain ⟨payload, output, has⟩ := well.output
    exact .ended ⟨well.ended, well.kept, payload, accepted.trans output, has⟩
  | failed phase image error sent =>
    obtain ⟨n, within, sent⟩ := sent
    exact .failed phase { image with } error ⟨n, within, accepted.trans sent⟩

/-- Every operation of the sequencer carries an ENCODE on. -/
theorem EncodeProgress.exec (progress : EncodeProgress s0 s) {i : Instr}
    (code : encode i = .phase s.phase) (busy : s.phase ≠ Phase.idle) (h : exec i s = .next t) :
    EncodeProgress s0 t := by
  cases progress with
  | header phase image noError sent =>
    cases instr_of_phase code phase rfl
    exact exec_eHdr_progress phase image noError sent h
  | gather phase image noError blocks sent blk =>
    cases instr_of_phase code phase rfl
    exact exec_eGather_progress phase image noError blocks sent blk h
  | emit phase image noError blocks sent blk =>
    cases instr_of_phase code phase rfl
    exact exec_eEmit_progress phase image noError blocks sent blk h
  | ended well => exact absurd well.ended.1 busy
  | failed phase => exact absurd phase busy

/-- R112: an ENCODE whose checks pass has sent nothing; one whose checks fail is over. -/
theorem State.startEncode_progress (s : State) :
    (s.startEncode.phase = Phase.idle ∧ s.startEncode.done = false) ∨
      EncodeProgress s s.startEncode := by
  rw [State.startEncode_eq]
  split
  · exact .inl ⟨rfl, rfl⟩
  split
  · exact .inl ⟨rfl, rfl⟩
  split
  · exact .inl ⟨rfl, rfl⟩
  next format width height =>
  have sent : s.outBytes = s.outBytes ++ s.encodedFile.take 0 := by simp
  exact .inr (.header rfl ⟨⟨rfl, rfl, rfl, rfl⟩, (resolve_some _ _).mpr (not_not.mp format),
    not_not.mp width, not_not.mp height, rfl⟩ rfl sent)

/-- Every moment of an ENCODE whose sink and raster are left alone: it was over at once, or it is
under way or has ended. -/
theorem encode_progress {n : Nat}
    (run : runOperation Turn.sparesEncode n s.startEncode = some t) :
    (t = s.startEncode ∧ t.phase = Phase.idle ∧ t.done = false) ∨ EncodeProgress s t := by
  rcases s.startEncode_progress with ⟨idle, notDone⟩ | progress
  · rcases runOperation_cases _ _ _ _ run with rfl | ⟨_, _, -, busy, -⟩
    · exact .inl ⟨rfl, idle, notDone⟩
    · exact absurd idle busy
  refine .inr (runOperation_induct Turn.sparesEncode (EncodeProgress s) ?_ n _ t run progress)
  intro u u' progress busy spared h
  rcases step_encode_cases busy spared h with ⟨i, code, runs⟩ | ⟨moved, accepted⟩
  · exact (progress.withAgents u.turns.tail u.rst u.source rfl).exec code busy runs
  · rw [moved] at accepted ⊢
    exact progress.withAgents _ _ _ accepted

end

/-- Settles O55: of the moments of an ENCODE only the good end has DONE = 1. -/
theorem encodeThatEndsWell : Obligations.EncodeThatEndsWell := by
  unfold Obligations.EncodeThatEndsWell
  intro n s t _ run idle done
  rcases encode_progress run with ⟨-, -, notDone⟩ | progress
  · exact absurd (notDone.symm.trans done) (by decide)
  cases progress with
  | header phase => exact absurd (phase.symm.trans idle) (by decide)
  | gather phase => exact absurd (phase.symm.trans idle) (by decide)
  | emit phase => exact absurd (phase.symm.trans idle) (by decide)
  | ended well => exact well
  | failed phase image => exact absurd (image.notDone.symm.trans done) (by decide)

end Sys2Proof.Machine
end

section
/-! PROOF. What an IN step does with a byte, and the padding: its bytes and its end (R141, R143). -/

namespace Sys2Proof.Machine

section
variable {s : State} {b : Byte} {rest : List InAnswer}

/-- R131, R143: with a byte at hand, D_HDR and D_PAD do their work on it. -/
theorem exec_in_byte (source : s.source = .byte b :: rest) :
    let s1 := { s with source := rest, trace := .inByte b :: s.trace }
    exec .stepDHdr s = .next (headerByteIn b s1) ∧ exec .stepDPad s = .next (paddingByteIn s1) := by
  rcases exec_in_cases s with ⟨b', rest', source', hdr, pad, -⟩ | ⟨rest', fail | ⟨empty, -⟩, -⟩
  · cases source.symm.trans source'
    exact ⟨hdr, pad⟩
  · cases source.symm.trans fail
  · cases source.symm.trans empty

/-- R141: each dimension error as the assignments of R228. -/
theorem State.paddingComplete_eq (s : State) :
    s.paddingComplete =
      if s.width.toNat % 8 ≠ 0 then { s with errcode := 6#4, phase := Phase.idle }
      else if s.height.toNat % 8 ≠ 0 then { s with errcode := 7#4, phase := Phase.idle }
      else s.startBlocks Phase.dFill := by
  rcases s.paddingComplete_cases with ⟨width, raised⟩ | ⟨width, height, raised⟩ |
    ⟨width, height, start⟩
  · rw [raised, if_pos width]
    rfl
  · rw [raised, if_neg (not_not.mpr width), if_pos height]
    rfl
  · rw [start, if_neg (not_not.mpr width), if_neg (not_not.mpr height)]

/-- R143: SKIP counts down, and the padding is complete when it has been 1. -/
theorem paddingByteIn_eq (s : State) :
    paddingByteIn s =
      if s.skip = 1#32 then State.paddingComplete { s with skip := s.skip - 1#32 }
      else { s with skip := s.skip - 1#32 } := by
  unfold paddingByteIn
  simp only [skip_sub_one_eq_zero]

/-- A difference of words that does not wrap is the difference of their numbers. -/
theorem sub_eq_ofNat {v w : Word} (le : w.toNat ≤ v.toNat) :
    v - w = BitVec.ofNat 32 (v.toNat - w.toNat) := by
  rw [← BitVec.toNat_sub_of_le (BitVec.le_def.mpr le), BitVec.ofNat_toNat, BitVec.setWidth_eq]

end

/-- Settles O17: the three cases of `padding_complete`. -/
theorem paddingCompleteChecks : Obligations.PaddingCompleteChecks := State.paddingComplete_eq

/-- Settles O16: SKIP does not wrap, because it is at least 1. -/
theorem paddingByteStep : Obligations.PaddingByteStep := by
  unfold Obligations.PaddingByteStep
  intro s b rest source some
  have counted : s.skip - 1#32 = BitVec.ofNat 32 (s.skip.toNat - 1) := sub_eq_ofNat some
  rw [(exec_in_byte source).2, paddingByteIn_eq, counted]

end Sys2Proof.Machine
end

section
/-! PROOF. The header parser, byte by byte and field by field (R131 to R140). -/

namespace Sys2Proof.Machine

section
variable {s : State}

/-! ### What one byte does -/

/-- R131: a byte inside a field. -/
theorem headerByteIn_inside (b : Byte) (inside : s.hcnt.toNat % 4 ≠ 3) (more : s.hcnt.toNat < 27) :
    headerByteIn b s =
      { s with acc := insertByte s.acc (s.hcnt.toNat % 4) b, hcnt := s.hcnt + 1#7 } := by
  simp only [headerByteIn, if_neg inside, countHeaderByte, if_pos more]

/-- R131: the last byte of field number `n`. -/
theorem headerByteIn_last (b : Byte) {n : Nat} (last : s.hcnt.toNat = 4 * n + 3) :
    headerByteIn b s = countHeaderByte s.hcnt
      (completeField n (insertByte s.acc 3 b) { s with acc := insertByte s.acc 3 b }) := by
  have place : s.hcnt.toNat % 4 = 3 := by omega
  have field : s.hcnt.toNat / 4 = n := by omega
  simp only [headerByteIn, place, field, if_true]

/-- R131: byte 27 is not counted, whatever its field does. -/
theorem countHeaderByte_27 (f : Flow) : countHeaderByte 27#7 f = f.state := by
  cases f with
  | goesOn s => rfl
  | raised s => rfl

/-! ### The last byte of each field -/

/-- R132: the magic is kept, right or wrong; a wrong one is not counted. -/
theorem headerByteIn_magic (b : Byte) (count : s.hcnt = 3#7) :
    headerByteIn b s =
      let v := insertByte s.acc 3 b
      if v = 0x65746300#32 then { s with acc := v, magic := v, hcnt := 4#7 }
      else { s with acc := v, magic := v, errcode := 2#4, phase := Phase.idle } := by
  rw [headerByteIn_last b (n := 0) (by rw [count]; rfl), count, completeField, if_pos rfl,
    fieldMagic]
  simp only
  split <;> rfl

/-- R133: the identifier is kept, known or not; an unknown one is not counted. -/
theorem headerByteIn_fmtid (b : Byte) (count : s.hcnt = 7#7) :
    headerByteIn b s =
      let v := insertByte s.acc 3 b
      if v = 8#32 then { s with acc := v, fmtid := v, hcnt := 8#7 }
      else { s with acc := v, fmtid := v, errcode := 3#4, phase := Phase.idle } := by
  rw [headerByteIn_last b (n := 1) (by rw [count]; rfl), count]
  simp only [completeField, fieldFmtid, resolve_eq_ite]
  by_cases known : insertByte s.acc 3 b = 8#32
  · rw [if_pos known, if_pos known]
    rfl
  · rw [if_neg known, if_neg known]
    rfl

/-- R134: no check is made of the width. -/
theorem headerByteIn_width (b : Byte) (count : s.hcnt = 11#7) :
    headerByteIn b s =
      { s with acc := insertByte s.acc 3 b, width := insertByte s.acc 3 b, hcnt := 12#7 } := by
  rw [headerByteIn_last b (n := 2) (by rw [count]; rfl), count]
  rfl

/-- R135: no check is made of the height. -/
theorem headerByteIn_height (b : Byte) (count : s.hcnt = 15#7) :
    headerByteIn b s =
      { s with acc := insertByte s.acc 3 b, height := insertByte s.acc 3 b, hcnt := 16#7 } := by
  rw [headerByteIn_last b (n := 3) (by rw [count]; rfl), count]
  rfl

/-- R136: the pixel length is checked only at the end of the header (R139). -/
theorem headerByteIn_pixbits (b : Byte) (count : s.hcnt = 19#7) :
    headerByteIn b s =
      { s with acc := insertByte s.acc 3 b, pixbits := insertByte s.acc 3 b, hcnt := 20#7 } := by
  rw [headerByteIn_last b (n := 4) (by rw [count]; rfl), count]
  rfl

/-- R137: the reserved field has no register. -/
theorem headerByteIn_reserved (b : Byte) (count : s.hcnt = 23#7) :
    headerByteIn b s = { s with acc := insertByte s.acc 3 b, hcnt := 24#7 } := by
  rw [headerByteIn_last b (n := 5) (by rw [count]; rfl), count]
  rfl

/-- R138 to R140: the checks that end the header, with the declared length of format 8. -/
theorem headerByteIn_payoff (b : Byte) (count : s.hcnt = 27#7) (format : s.fmtid = 8#32) :
    headerByteIn b s =
      let v := insertByte s.acc 3 b
      let s1 := { s with acc := v, payoff := v }
      if s.pixbits ≠ 8#32 then { s1 with errcode := 5#4, phase := Phase.idle }
      else if v.toNat < 28 then { s1 with errcode := 4#4, phase := Phase.idle }
      else if v.toNat = 28 then State.paddingComplete { s1 with skip := 0#32 }
      else { s1 with skip := BitVec.ofNat 32 (v.toNat - 28), phase := Phase.dPad } := by
  have payoff (v : Word) (s : State) : completeField 6 v s = fieldPayoff v s := rfl
  rw [headerByteIn_last b (n := 6) (by rw [count]; rfl), count, countHeaderByte_27, payoff,
    fieldPayoff_eq]
  simp only [format, declaredBits_a8]
  generalize insertByte s.acc 3 b = v
  split
  · rfl
  split
  · rfl
  next enough =>
  split
  · next some =>
    have skip : v - 28#32 = BitVec.ofNat 32 (v.toNat - 28) := sub_eq_ofNat (not_lt.mp enough)
    rw [if_neg (by omega), ← skip]
    rfl
  · next none =>
    rw [if_pos (by omega)]
    rfl

end

/-- Settles O11: the rule for a byte inside a field. -/
theorem headerByteInsideField : Obligations.HeaderByteInsideField := by
  unfold Obligations.HeaderByteInsideField
  intro s b rest source inside more
  exact (exec_in_byte source).1.trans (congrArg _ (headerByteIn_inside b inside more))

/-- Settles O12: one rule per field; the two checks pass. -/
theorem headerFieldLands : Obligations.HeaderFieldLands := by
  unfold Obligations.HeaderFieldLands
  intro s b rest source
  have byte := (exec_in_byte source).1
  refine ⟨fun count magic => ?_, fun count known => ?_, fun count => ?_, fun count => ?_,
    fun count => ?_, fun count => ?_⟩
  all_goals refine byte.trans (congrArg _ ?_)
  · rw [headerByteIn_magic b (by exact count), if_pos magic]
  · rw [headerByteIn_fmtid b (by exact count), if_pos known]
  · exact headerByteIn_width b count
  · exact headerByteIn_height b count
  · exact headerByteIn_pixbits b count
  · exact headerByteIn_reserved b count

/-- Settles O13: the two checks fail. -/
theorem headerFieldFaults : Obligations.HeaderFieldFaults := by
  unfold Obligations.HeaderFieldFaults
  intro s b rest source
  have byte := (exec_in_byte source).1
  refine ⟨fun count wrong => ?_, fun count unknown => ?_⟩
  all_goals refine byte.trans (congrArg _ ?_)
  · rw [headerByteIn_magic b (by exact count), if_neg wrong]
  · rw [headerByteIn_fmtid b (by exact count), if_neg unknown]

/-- Settles O14: the rule for the last field. -/
theorem headerEndChecks : Obligations.HeaderEndChecks := by
  unfold Obligations.HeaderEndChecks
  intro s b rest source count format
  exact (exec_in_byte source).1.trans (congrArg _ (headerByteIn_payoff b count format))

/-! ### Four bytes -/

/-- R33, R82: four bytes in ACC are its little-endian value, whatever was there before. -/
theorem insertByte_four (acc : Word) (b0 b1 b2 b3 : Byte) :
    insertByte (insertByte (insertByte (insertByte acc 0 b0) 1 b1) 2 b2) 3 b3 = u32 b0 b1 b2 b3 := by
  have empty : AccHolds acc (fun j => [b0, b1, b2, b3].getD j 0) 0 :=
    fun _ none => absurd none (Nat.not_lt_zero _)
  have full := (((empty.insertByte (by omega)).insertByte (by omega)).insertByte
    (by omega)).insertByte (by omega)
  rw [← u32_byteOf (insertByte _ 3 _)]
  congr 1
  · exact full 0 (by omega)
  · exact full 1 (by omega)
  · exact full 2 (by omega)
  · exact full 3 (by omega)

section
variable {s : State} {b : Byte} {rest : List InAnswer} {more : List Turn}

/-- R120, R131: the sequencer's turn in D_HDR with a byte at hand. -/
theorem step_dHdr_byte (phase : s.phase = Phase.dHdr) (released : s.rst = false)
    (moves : s.turns = .sequencer :: more) (source : s.source = .byte b :: rest) :
    step s = .next (headerByteIn b
      { s with turns := more, source := rest, trace := .inByte b :: s.trace }) := by
  have decodes : decodeCode (.phase s.phase) = .ok .stepDHdr := by rw [phase]; rfl
  rw [step_of_pending
    (State.pending_sequencer released (phase_ne_idle_of_decodeCode decodes) moves) decodes,
    State.popTurn_of_turns moves]
  exact (exec_in_byte (s := { s with turns := more }) source).1

/-- A run in D_HDR begins with a byte inside a field. -/
theorem run_dHdr_inside {n j : Nat} (phase : s.phase = Phase.dHdr) (released : s.rst = false)
    (moves : s.turns = .sequencer :: more) (source : s.source = .byte b :: rest)
    (place : s.hcnt.toNat % 4 = j) (inside : j < 3) (count : s.hcnt.toNat < 27) :
    Host.Core.run Sys2Proof.core (n + 1) s = Host.Core.run Sys2Proof.core n
      { s with
        turns := more, source := rest, trace := .inByte b :: s.trace
        acc := insertByte s.acc j b, hcnt := s.hcnt + 1#7 } := by
  subst place
  have collected := headerByteIn_inside
    (s := { s with turns := more, source := rest, trace := .inByte b :: s.trace }) b inside.ne
    count
  exact run_next n s _ ((step_dHdr_byte phase released moves source).trans (congrArg _ collected))

/-- R131: four sequencer turns in D_HDR from the first offset `k` of a field collect its first three
bytes in ACC; the fourth byte completes it. -/
theorem run_dHdr_field {k : BitVec 7} {b0 b1 b2 b3 : Byte} (phase : s.phase = Phase.dHdr)
    (released : s.rst = false)
    (source : s.source = .byte b0 :: .byte b1 :: .byte b2 :: .byte b3 :: rest)
    (moves : s.turns = List.replicate 4 .sequencer ++ more)
    (count : s.hcnt = k) (first : k.toNat % 4 = 0) (within : k.toNat ≤ 24) :
    Host.Core.run Sys2Proof.core 4 s = .next (headerByteIn b3
      { s with
        source := rest, turns := more
        trace := .inByte b3 :: .inByte b2 :: .inByte b1 :: .inByte b0 :: s.trace
        acc := insertByte (insertByte (insertByte s.acc 0 b0) 1 b1) 2 b2, hcnt := k + 3#7 }) := by
  subst count
  have one := hcnt_succ s.hcnt (by omega)
  have two := hcnt_succ (s.hcnt + 1#7) (by omega)
  have three : s.hcnt + 1#7 + 1#7 + 1#7 = s.hcnt + 3#7 := by bv_omega
  rw [← three]
  refine Eq.trans (run_dHdr_inside phase released moves source first (by omega) (by omega)) ?_
  refine Eq.trans (run_dHdr_inside (j := 1) phase released rfl rfl ?_ (by omega) ?_) ?_
  · simp only [one]
    omega
  · simp only [one]
    omega
  refine Eq.trans (run_dHdr_inside (j := 2) phase released rfl rfl ?_ (by omega) ?_) ?_
  · simp only [two, one]
    omega
  · simp only [two, one]
    omega
  exact run_next 0 _ _ (step_dHdr_byte phase released rfl rfl)

end

/-- Settles O15: three bytes inside the field, and the rule of the field for the fourth. -/
theorem fourHeaderBytesMakeAField : Obligations.FourHeaderBytesMakeAField := by
  unfold Obligations.FourHeaderBytesMakeAField
  intro s b0 b1 b2 b3 rest more phase released source moves
  have run (k : BitVec 7) := run_dHdr_field (k := k) phase released source moves
  rw [← insertByte_four s.acc b0 b1 b2 b3]
  refine ⟨fun count => ?_, fun count => ?_, fun count => ?_, fun count => ?_, fun count => ?_,
    fun count => ?_, fun count format => ?_⟩
  all_goals refine (run _ count rfl (by decide)).trans (congrArg _ ?_)
  · exact headerByteIn_magic b3 rfl
  · exact headerByteIn_fmtid b3 rfl
  · exact headerByteIn_width b3 rfl
  · exact headerByteIn_height b3 rfl
  · exact headerByteIn_pixbits b3 rfl
  · exact headerByteIn_reserved b3 rfl
  · exact headerByteIn_payoff b3 rfl format

end Sys2Proof.Machine
end

section
/-! PROOF. STEP.E_HDR with an accepting sink (R161). -/

namespace Sys2Proof.Machine

/-- R55: a sink whose next answer is Ok, from its list or for ever after it. -/
theorem Sink.next_rest_of_ok {k : Sink} {more : List OutAnswer}
    (accepts : k.answers = .ok :: more ∨ (k.answers = [] ∧ k.thereafter = .ok ∧ more = [])) :
    Sink.next k = .ok ∧ Sink.rest k = { k with answers := more } := by
  unfold Sink.next Sink.rest
  rcases accepts with list | ⟨list, always, rfl⟩
  · rw [list]
    exact ⟨rfl, rfl⟩
  · rw [list]
    exact ⟨always, rfl⟩

/-- Settles O23: the byte is accepted, and `headerByteOut` is what follows. -/
theorem emitHeaderByteStep : Obligations.EmitHeaderByteStep := by
  unfold Obligations.EmitHeaderByteStep
  intro s more accepts
  obtain ⟨ok, rest⟩ := Sink.next_rest_of_ok accepts
  rcases exec_eHdr_cases s with ⟨-, sent⟩ | ⟨fail, -⟩
  · rw [sent, rest]
    rfl
  · cases ok.symm.trans fail

end Sys2Proof.Machine
end

section
/-! PROOF. The header ENCODE writes, read by DECODE (R163): the command, seven fields, 100 bytes of
padding. -/

namespace Sys2Proof.Machine

/-- A run goes on from where its first `m` steps lead; for any machine. -/
theorem run_add_of {m : Nat} (n : Nat) (M : Host.Core) (s t : M.State)
    (first : M.run m s = .next t) : M.run (n + m) s = M.run n t := by
  induction m generalizing s with
  | zero =>
    cases first
    rfl
  | succ m ih =>
    rw [Host.Core.run] at first
    split at first
    · next s' moved => exact (run_next_of (n + m) M s s' moved).trans (ih s' first)
    · cases first
    · cases first

section
variable {s t : State} {rest : List InAnswer} {more : List Turn}

/-- A run goes on from where its first `m` steps lead. -/
theorem run_add {m : Nat} (n : Nat) (first : Host.Core.run Sys2Proof.core m s = .next t) :
    Host.Core.run Sys2Proof.core (n + m) s = Host.Core.run Sys2Proof.core n t :=
  run_add_of n Sys2Proof.core s t first

/-- R131, R82: four sequencer turns read field number `n`, which passes its check. -/
theorem run_dHdr_goesOn {v : Word} {m : Nat} (n : Nat) (phase : s.phase = Phase.dHdr)
    (released : s.rst = false) (source : s.source = (fieldBytes v).map .byte ++ rest)
    (moves : s.turns = List.replicate (m + 4) .sequencer ++ more)
    (count : s.hcnt = BitVec.ofNat 7 (4 * n)) (within : n ≤ 6)
    (passes : completeField n v
      { s with
        source := rest, turns := List.replicate m .sequencer ++ more
        trace := ((fieldBytes v).map .inByte).reverse ++ s.trace
        acc := v, hcnt := BitVec.ofNat 7 (4 * n + 3) } = .goesOn t) :
    Host.Core.run Sys2Proof.core (m + 4) s = Host.Core.run Sys2Proof.core m
      (countHeaderByte (BitVec.ofNat 7 (4 * n + 3)) (.goesOn t)) := by
  have first : (BitVec.ofNat 7 (4 * n)).toNat = 4 * n := Nat.mod_eq_of_lt (by omega)
  have last : (BitVec.ofNat 7 (4 * n + 3)).toNat = 4 * n + 3 := Nat.mod_eq_of_lt (by omega)
  rw [run_add m (run_dHdr_field phase released source moves count (by omega) (by omega)),
    BitVec.ofNat_add_ofNat, headerByteIn_last _ last, insertByte_four, u32_byteOf, ← passes]
  rfl

/-- R162: the values of the seven fields for format 8. -/
def canonicalFields (w h : Word) : List Word :=
  [Config.magicWord, 8#32, w, h, 8#32, 0#32, Config.hdrCanon]

/-- R132 to R140, R163: the seven fields pass every check and leave 100 bytes of padding. The checks
are on the fixed fields, so evaluating `completeField` decides each of them for every `w` and `h`. -/
theorem run_dHdr_canonicalFields {w h : Word} (n : Nat) (phase : s.phase = Phase.dHdr)
    (released : s.rst = false) (count : s.hcnt = 0#7)
    (source : s.source = ((canonicalFields w h).flatMap fieldBytes).map .byte ++ rest)
    (moves : s.turns = List.replicate (n + 28) .sequencer ++ more) :
    Host.Core.run Sys2Proof.core (n + 28) s = Host.Core.run Sys2Proof.core n
      { s with
        magic := Config.magicWord, fmtid := 8#32, width := w, height := h, pixbits := 8#32
        payoff := 128#32, phase := Phase.dPad, acc := 128#32, hcnt := 27#7, skip := 100#32
        source := rest, turns := List.replicate n .sequencer ++ more
        trace := (((canonicalFields w h).flatMap fieldBytes).map .inByte).reverse ++ s.trace } := by
  refine Eq.trans (run_dHdr_goesOn 0 phase released source moves count (by omega) rfl) ?_
  refine Eq.trans (run_dHdr_goesOn 1 phase released rfl rfl rfl (by omega) rfl) ?_
  refine Eq.trans (run_dHdr_goesOn 2 phase released rfl rfl rfl (by omega) rfl) ?_
  refine Eq.trans (run_dHdr_goesOn 3 phase released rfl rfl rfl (by omega) rfl) ?_
  refine Eq.trans (run_dHdr_goesOn 4 phase released rfl rfl rfl (by omega) rfl) ?_
  refine Eq.trans (run_dHdr_goesOn 5 phase released rfl rfl rfl (by omega) rfl) ?_
  refine Eq.trans (run_dHdr_goesOn 6 phase released rfl rfl rfl (by omega) rfl) ?_
  rfl

/-- R120, R143: the sequencer's turn in D_PAD with a byte at hand. -/
theorem step_dPad_byte {b : Byte} (phase : s.phase = Phase.dPad) (released : s.rst = false)
    (moves : s.turns = .sequencer :: more) (source : s.source = .byte b :: rest) :
    step s = .next (paddingByteIn
      { s with turns := more, source := rest, trace := .inByte b :: s.trace }) := by
  have decodes : decodeCode (.phase s.phase) = .ok .stepDPad := by rw [phase]; rfl
  rw [step_of_pending
    (State.pending_sequencer released (phase_ne_idle_of_decodeCode decodes) moves) decodes,
    State.popTurn_of_turns moves]
  exact (exec_in_byte (s := { s with turns := more }) source).2

/-- R143: as many sequencer turns as there are padding bytes left consume them, whatever they are,
and complete the padding. -/
theorem run_dPad (b : Byte) (bytes : List Byte) (phase : s.phase = Phase.dPad)
    (released : s.rst = false) (source : s.source = (b :: bytes).map .byte ++ rest)
    (moves : s.turns = List.replicate (b :: bytes).length .sequencer ++ more)
    (skip : s.skip.toNat = (b :: bytes).length) :
    Host.Core.run Sys2Proof.core (b :: bytes).length s = .next (State.paddingComplete
      { s with
        source := rest, turns := more, skip := 0#32
        trace := ((b :: bytes).map .inByte).reverse ++ s.trace }) := by
  induction bytes generalizing s b with
  | nil =>
    have last : s.skip = 1#32 := BitVec.eq_of_toNat_eq skip
    refine Eq.trans (run_next 0 s _ (step_dPad_byte phase released moves source)) ?_
    rw [run_zero, paddingByteIn_eq, if_pos last, last]
    rfl
  | cons b' bytes ih =>
    simp only [List.length_cons] at skip
    have notLast : s.skip ≠ 1#32 := by bv_omega
    have counted : (s.skip - 1#32).toNat = (b' :: bytes).length := by
      rw [List.length_cons]
      bv_omega
    refine Eq.trans (run_next _ s _ (step_dPad_byte phase released moves source)) ?_
    rw [paddingByteIn_eq, if_neg notLast]
    refine Eq.trans (ih b' phase released rfl rfl counted) ?_
    simp only [List.map_cons, List.reverse_cons, List.append_assoc, List.cons_append,
      List.nil_append]

/-- R111, R163: a DECODE command and 128 sequencer turns read the header ENCODE writes, up to the
checks of the dimensions. -/
theorem run_decode_canonicalHeader {w h : Word} (idle : s.phase = Phase.idle)
    (released : s.rst = false)
    (source : s.source = (canonicalHeader 8#32 w h).map .byte ++ rest)
    (moves : s.turns = .host (.csrWrite 0x20#32 .word 1#32) ::
      (List.replicate 128 .sequencer ++ more)) :
    Host.Core.run Sys2Proof.core 129 s = .next (State.paddingComplete
      { s.startDecode with
        magic := Config.magicWord, fmtid := 8#32, width := w, height := h, pixbits := 8#32
        payoff := 128#32, phase := Phase.dPad, acc := 128#32, hcnt := 27#7, skip := 0#32
        source := rest, turns := more
        trace := ((canonicalHeader 8#32 w h).map .inByte).reverse ++ s.trace }) := by
  have header : canonicalHeader 8#32 w h =
      (canonicalFields w h).flatMap fieldBytes ++ List.replicate 100 0#8 :=
    headerBytesOfEncode w h
  have command : step s = .next (State.startDecode
      { s with turns := List.replicate 128 .sequencer ++ more }) :=
    (step_csrWrite_cmd released moves).trans (if_pos idle)
  rw [header, List.map_append, List.append_assoc] at source
  refine Eq.trans (run_next 128 s _ command) ?_
  refine Eq.trans (run_dHdr_canonicalFields 100 rfl released rfl source rfl) ?_
  refine Eq.trans (run_dPad 0#8 (List.replicate 99 0#8) rfl released rfl rfl rfl) ?_
  rw [header, List.map_append, List.reverse_append, List.append_assoc]
  rfl

end

/-- A multiple of 8 is 0 exactly when it spans no block (R181). -/
theorem eq_zero_iff_div_eight {v : Word} (multiple : v.toNat % 8 = 0) :
    v = 0#32 ↔ v.toNat / 8 = 0 := by
  bv_omega

/-- Settles O58: the dimension checks pass, and `start_blocks` finds an empty image or begins at its
first block. -/
theorem headerRoundTrip : Obligations.HeaderRoundTrip := by
  unfold Obligations.HeaderRoundTrip
  intro s w h rest more idle released width height source moves
  refine ⟨_, run_decode_canonicalHeader idle released source moves, ?_⟩
  rw [State.paddingComplete_eq, if_neg (not_not.mpr width), if_neg (not_not.mpr height)]
  simp only [eq_zero_iff_div_eight width, eq_zero_iff_div_eight height]
  rcases State.startBlocks_cases _ Phase.dFill with ⟨empty, finish⟩ | ⟨wide, high, start, bY⟩
  · rw [finish, if_pos empty]
    exact ⟨rfl, rfl, rfl, rfl, rfl, rfl, rfl, rfl, rfl, rfl, rfl⟩
  · rw [start, if_neg (not_or.mpr ⟨wide.ne', high.ne'⟩)]
    exact ⟨rfl, rfl, rfl, rfl, rfl, rfl, rfl, rfl, rfl, rfl, rfl, rfl, bY⟩

end Sys2Proof.Machine
end

section
/-! PROOF. The traversal table, and the block scan: the first block, and the block after a block
(R175, R179, R181, R182). -/

namespace Sys2Proof.Machine

/-- Settles O38: the table is fixed, and R175 derives it by enumeration. -/
theorem traversalTable : Obligations.TraversalTable := by
  unfold Obligations.TraversalTable
  decide

/-! ### `start_blocks` and `next_block` as assignments (R181, R182) -/

section
variable (s : State) (p : BitVec 4)

/-- R181: the subtraction does not wrap, because there is a block-row. -/
theorem State.startBlocks_eq :
    s.startBlocks p =
      if s.width.toNat / 8 = 0 ∨ s.height.toNat / 8 = 0 then
        { s with phase := Phase.idle, done := true }
      else
        { s with
          bX := 0#29, bY := BitVec.ofNat 29 (s.height.toNat / 8 - 1), idx := 0#6, phase := p } := by
  rcases s.startBlocks_cases p with ⟨empty, finish⟩ | ⟨wide, high, start, bY⟩
  · rw [finish, if_pos empty]
    rfl
  · rw [start, if_neg (not_or.mpr ⟨wide.ne', high.ne'⟩), ← bY, BitVec.ofNat_toNat,
      BitVec.setWidth_eq]

/-- R182: the three arms. -/
theorem State.nextBlock_eq :
    s.nextBlock p =
      if s.bX.toNat + 1 < s.width.toNat / 8 then
        { s with idx := 0#6, bX := s.bX + 1#29, phase := p }
      else if 0 < s.bY.toNat then
        { s with idx := 0#6, bX := 0#29, bY := s.bY - 1#29, phase := p }
      else { s with idx := 0#6, phase := Phase.idle, done := true } := by
  rcases s.nextBlock_cases p with ⟨more, -, right⟩ | ⟨last, more, -, up⟩ | ⟨last, top, finish⟩
  · rw [right, if_pos more]
  · rw [up, if_neg last.not_gt, if_pos more]
  · rw [finish, if_neg last.not_gt, if_neg top.not_gt]

end

/-! ### The scan in file order (R86, R179) -/

section
variable {s : State}

/-- R179: `next_block` moves on from every number but the highest. -/
theorem State.InBlocks.nextBlock_scan (blocks : s.InBlocks) (p : BitVec 4) :
    if s.group + 1 < s.width.toNat / 8 * (s.height.toNat / 8) then
      (s.nextBlock p).phase = p ∧ (s.nextBlock p).InBlocks ∧ (s.nextBlock p).group = s.group + 1
    else (s.nextBlock p).phase = Phase.idle ∧ (s.nextBlock p).done = true := by
  rw [Nat.mul_comm (s.width.toNat / 8)]
  rcases blocks.nextBlock_group p with ⟨bX, bY, another, inside, group⟩ | ⟨finish, whole⟩
  · have more : s.group + 1 < s.height.toNat / 8 * (s.width.toNat / 8) := by
      have below := inside.group_lt
      rw [group, another] at below
      exact below
    rw [if_pos more]
    exact ⟨by rw [another], inside, group⟩
  · have last : s.group + 1 = s.height.toNat / 8 * (s.width.toNat / 8) := by
      have size := blocks.payloadSize_eq
      omega
    rw [if_neg last.not_lt, finish]
    exact ⟨rfl, rfl⟩

end

/-- Settles O18: `start_blocks` as assignments. -/
theorem startBlocksRule : Obligations.StartBlocksRule := State.startBlocks_eq

/-- Settles O19: the three arms for every state, and the file order from the block at hand, which
holds for every `p`. -/
theorem nextBlockRule : Obligations.NextBlockRule :=
  fun s p => ⟨s.nextBlock_eq p, fun blocks _ => blocks.nextBlock_scan p⟩

end Sys2Proof.Machine
end

section
/-! PROOF. One D_FILL step and one D_DRAIN step: the byte in BLK, the unpacked pixel in the raster
(R58, R190, R192, R195). -/

namespace Sys2Proof.Machine

/-! ### The unpacked byte (R195) -/

/-- The high half of a byte in the low half of a channel. -/
theorem luminance_toNat (v : Byte) : (0#4 ++ v.extractLsb' 4 4).toNat = v.toNat / 16 := by
  have := v.isLt
  rw [BitVec.toNat_append, BitVec.extractLsb'_toNat, Nat.shiftRight_eq_div_pow]
  simp only [BitVec.toNat_ofNat, Nat.zero_mod, Nat.zero_shiftLeft, Nat.zero_or]
  omega

/-- The low half of a byte in the high half of a channel. -/
theorem alpha_toNat (v : Byte) : (v.extractLsb' 0 4 ++ 0#4).toNat = v.toNat % 16 * 16 := by
  rw [BitVec.toNat_append, BitVec.extractLsb'_toNat, Nat.shiftLeft_eq]
  simp only [BitVec.toNat_ofNat, Nat.zero_mod, Nat.or_zero, Nat.shiftRight_zero]

/-- Settles O35: three channels are the luminance, the fourth is the alpha. -/
theorem unpackA8Rule : Obligations.UnpackA8Rule := fun v =>
  ⟨luminance_toNat v, luminance_toNat v, luminance_toNat v, alpha_toNat v⟩

/-! ### STEP.D_FILL -/

section
variable {s : State} {b : Byte} {rest : List InAnswer} {more : List Turn}

/-- R190: with a byte at hand, D_FILL puts it in BLK. -/
theorem exec_dFill_byte (source : s.source = .byte b :: rest) :
    exec .stepDFill s = .next (State.nextInBlock
      { s with source := rest, trace := .inByte b :: s.trace, blk := blkSet s.blk s.idx b }
      Phase.dDrain) := by
  rcases exec_in_cases s with ⟨b', rest', source', -, -, fill⟩ | ⟨rest', fail | ⟨empty, -⟩, -⟩
  · cases source.symm.trans source'
    exact fill
  · cases source.symm.trans fail
  · cases source.symm.trans empty

/-- R120, R190: the sequencer's turn in D_FILL with a byte at hand. -/
theorem step_dFill_byte (phase : s.phase = Phase.dFill) (released : s.rst = false)
    (moves : s.turns = .sequencer :: more) (source : s.source = .byte b :: rest) :
    step s = .next (State.nextInBlock
      { s with
        turns := more, source := rest, trace := .inByte b :: s.trace
        blk := blkSet s.blk s.idx b } Phase.dDrain) := by
  have decodes : decodeCode (.phase s.phase) = .ok .stepDFill := by rw [phase]; rfl
  rw [(stepRunsTheDecodedOperation s _ more released).1 moves decodes]
  exact exec_dFill_byte (s := { s with turns := more }) source

end

/-- Settles O20: `nextInBlock` tells the 64th byte of a block from the others. -/
theorem fillStep : Obligations.FillStep := by
  unfold Obligations.FillStep
  intro s b rest source
  rw [exec_dFill_byte source]
  rfl

/-! ### STEP.D_DRAIN -/

section
variable {s : State} {more : List Turn}

/-- R192: the pixel of BLK[IDX] is written. -/
theorem exec_dDrain (s : State) :
    exec .stepDDrain s = .next (State.nextInDrain
      (s.rasWrite (pixelAt s.bX s.bY s.idx).1 (pixelAt s.bX s.bY s.idx).2
        (unpackA8 (blkGet s.blk s.idx))) Phase.dFill) := rfl

/-- R120, R192: the sequencer's turn in D_DRAIN. -/
theorem step_dDrain (phase : s.phase = Phase.dDrain) (released : s.rst = false)
    (moves : s.turns = .sequencer :: more) :
    step s = .next (State.nextInDrain
      (State.rasWrite { s with turns := more }
        (pixelAt s.bX s.bY s.idx).1 (pixelAt s.bX s.bY s.idx).2 (unpackA8 (blkGet s.blk s.idx)))
      Phase.dFill) := by
  have decodes : decodeCode (.phase s.phase) = .ok .stepDDrain := by rw [phase]; rfl
  rw [(stepRunsTheDecodedOperation s _ more released).1 moves decodes, exec_dDrain]

end

/-- R58: a byte at none of the four addresses of the written pixel reads as before. -/
theorem Memory.read_setPixel_off (m : Memory) {x y : Word} (px : Pixel) {a : Nat}
    (off : ∀ c < 4, a ≠ rasAddr x y c) : (m.setPixel x y px).read a = m.read a := by
  rw [m.read_setPixel, if_neg (off 3 (by omega)), if_neg (off 2 (by omega)),
    if_neg (off 1 (by omega)), if_neg (off 0 (by omega))]

/-- Settles O21: the raster after the step is the one with the pixel set. -/
theorem drainStep : Obligations.DrainStep := by
  unfold Obligations.DrainStep
  intro s x y px
  refine ⟨s.raster.setPixel x y px, s.raster.pixel_setPixel_same x y px,
    fun a off => s.raster.read_setPixel_off px off, ?_⟩
  rw [exec_dDrain]
  rfl

end Sys2Proof.Machine
end

section
/-! PROOF. A DECODE that an error ended has written whole blocks (R191, R221, R230). -/

namespace Sys2Proof.Machine

/-- Settles O54: of the moments of a DECODE only an error has ERRCODE other than 0, and it carries
the pixels of the whole blocks. -/
theorem faultedDecodeKeepsWholeBlocks : Obligations.FaultedDecodeKeepsWholeBlocks := by
  unfold Obligations.FaultedDecodeKeepsWholeBlocks
  intro file n s t source run idle error
  cases decode_progress source run with
  | header fields => exact absurd (fields.phase.symm.trans idle) (by decide)
  | padding phase => exact absurd (phase.symm.trans idle) (by decide)
  | fill phase => exact absurd (phase.symm.trans idle) (by decide)
  | drain phase => exact absurd (phase.symm.trans idle) (by decide)
  | ended well => exact absurd well.ended.2.2 error
  | failed phase notDone pixels => exact ⟨pixels.written, pixels.untouched⟩

end Sys2Proof.Machine
end

section
/-! PROOF. A whole block of a DECODE: 64 bytes into BLK, 64 pixels into the raster, `next_block`
(R190 to R193). -/

namespace Sys2Proof.Machine

/-! ### The pixels of one block -/

/-- R177, R180: the pixels of one block are different. -/
theorem pixelAt_inj {bX bY : BitVec 29} {i j : BitVec 6} (same : pixelAt bX bY i = pixelAt bX bY j) :
    i = j := by
  have positions := payloadPos_pixelAt 0#32 0#32 bX bY i
  rw [same, payloadPos_pixelAt] at positions
  exact BitVec.eq_of_toNat_eq (Nat.add_left_cancel positions).symm

/-- The first `n` pixels of the block at `(bX, bY)` are these bytes, unpacked, and every other pixel
is as in `before` (R58, R192). -/
structure BlockPixels (bX bY : BitVec 29) (bytes : Nat → Byte) (before m : Memory) (n : Nat) :
    Prop where
  written : ∀ i : BitVec 6, i.toNat < n →
    m.pixel (pixelAt bX bY i).1 (pixelAt bX bY i).2 = unpackA8 (bytes i.toNat)
  untouched : ∀ x y, (∀ i : BitVec 6, i.toNat < n → pixelAt bX bY i ≠ (x, y)) →
    m.pixel x y = before.pixel x y

theorem blockPixels_zero (bX bY : BitVec 29) (bytes : Nat → Byte) (m : Memory) :
    BlockPixels bX bY bytes m m 0 where
  written := fun _ none => absurd none (Nat.not_lt_zero _)
  untouched := fun _ _ _ => rfl

/-- R192: the next pixel of the block is written. -/
theorem BlockPixels.setPixel {bX bY : BitVec 29} {bytes : Nat → Byte} {before m : Memory}
    {idx : BitVec 6} (pixels : BlockPixels bX bY bytes before m idx.toNat) :
    BlockPixels bX bY bytes before
      (m.setPixel (pixelAt bX bY idx).1 (pixelAt bX bY idx).2 (unpackA8 (bytes idx.toNat)))
      (idx.toNat + 1) where
  written := by
    intro i upTo
    by_cases new : i = idx
    · rw [new, Memory.pixel_setPixel_same]
    · rw [Memory.pixel_setPixel_ne _ _ fun same => new (pixelAt_inj (Prod.ext same.1 same.2))]
      refine pixels.written i ?_
      rw [← BitVec.toNat_inj] at new
      omega
  untouched := by
    intro x y other
    rw [Memory.pixel_setPixel_ne _ _ fun same =>
      other idx (Nat.lt_succ_self _) (Prod.ext same.1.symm same.2.symm)]
    exact pixels.untouched x y fun i upTo => other i (Nat.lt_succ_of_lt upTo)

/-! ### The two phases of a block -/

section
variable {s : State} {bs : List Byte} {rest : List InAnswer} {more : List Turn}

/-- R190: byte number IDX of the block goes to BLK[IDX]. -/
theorem step_dFill_blockByte (inBlock : s.idx.toNat < bs.length) (phase : s.phase = Phase.dFill)
    (released : s.rst = false) (moves : s.turns = .sequencer :: more)
    (source : s.source = (bs.drop s.idx.toNat).map .byte ++ rest) :
    step s = .next (State.nextInBlock
      { s with
        turns := more, source := (bs.drop (s.idx.toNat + 1)).map .byte ++ rest
        trace := .inByte (bs.getD s.idx.toNat 0) :: s.trace
        blk := blkSet s.blk s.idx (bs.getD s.idx.toNat 0) } Phase.dDrain) := by
  rw [List.drop_eq_getElem_cons inBlock, ← List.getD_eq_getElem bs 0 inBlock] at source
  exact step_dFill_byte phase released moves source

/-- R190: from IDX on, as many sequencer turns in D_FILL as bytes are missing bring the rest of the
64 bytes into BLK and hand over to D_DRAIN. -/
theorem run_dFill (n : Nat) (place : s.idx.toNat + (n + 1) = 64) (phase : s.phase = Phase.dFill)
    (released : s.rst = false) (full : bs.length = 64)
    (source : s.source = (bs.drop s.idx.toNat).map .byte ++ rest)
    (moves : s.turns = List.replicate (n + 1) .sequencer ++ more)
    (blk : BlkHolds s.blk (bs.getD · 0) s.idx.toNat) :
    ∃ filled trace, BlkHolds filled (bs.getD · 0) 64 ∧
      Host.Core.run Sys2Proof.core (n + 1) s = .next
        { s with
          blk := filled, trace := trace, source := rest, turns := more
          idx := 0#6, phase := Phase.dDrain } := by
  induction n generalizing s with
  | zero =>
    have next := step_dFill_blockByte (by omega) phase released moves source
    have blk := blk.blkSet
    have last : ¬s.idx.toNat < 63 := by omega
    rw [place] at blk
    rw [place, List.drop_eq_nil_of_le full.le] at next
    exact ⟨_, _, blk, run_next 0 s _ (next.trans (congrArg _ (if_neg last)))⟩
  | succ n ih =>
    have next := step_dFill_blockByte (by omega) phase released moves source
    have blk := blk.blkSet
    have notLast : s.idx.toNat < 63 := by omega
    have counted := idx_succ s.idx notLast
    rw [← counted] at next blk
    obtain ⟨filled, trace, holds, run⟩ := ih (s := { s with
      idx := s.idx + 1#6, turns := _, source := (bs.drop (s.idx + 1#6).toNat).map .byte ++ rest
      trace := _, blk := _ })
      (by simp only [counted]; omega) phase released rfl rfl blk
    exact ⟨filled, trace, holds,
      (run_next _ s _ (next.trans (congrArg _ (if_pos notLast)))).trans run⟩

/-- R192: from IDX on, as many sequencer turns in D_DRAIN as pixels are missing write the rest of the
block and end it. -/
theorem run_dDrain {bytes : Nat → Byte} {before : Memory} (n : Nat)
    (place : s.idx.toNat + (n + 1) = 64) (phase : s.phase = Phase.dDrain)
    (released : s.rst = false) (moves : s.turns = List.replicate (n + 1) .sequencer ++ more)
    (blk : BlkHolds s.blk bytes 64)
    (pixels : BlockPixels s.bX s.bY bytes before s.raster s.idx.toNat) :
    ∃ raster trace, BlockPixels s.bX s.bY bytes before raster 64 ∧
      Host.Core.run Sys2Proof.core (n + 1) s = .next (State.nextBlock
        { s with raster := raster, trace := trace, turns := more, idx := 63#6 } Phase.dFill) := by
  induction n generalizing s with
  | zero =>
    have last : s.idx = 63#6 := BitVec.eq_of_toNat_eq (by simpa using place)
    have written := pixels.setPixel
    rw [← blk s.idx s.idx.isLt, place] at written
    have notMore : ¬s.idx.toNat < 63 := by omega
    have next := (step_dDrain phase released moves).trans (congrArg _ (if_neg notMore))
    rw [← last]
    exact ⟨_, _, written, run_next 0 s _ next⟩
  | succ n ih =>
    have notLast : s.idx.toNat < 63 := by omega
    have counted := idx_succ s.idx notLast
    have written := pixels.setPixel
    rw [← blk s.idx s.idx.isLt, ← counted] at written
    have next := (step_dDrain phase released moves).trans (congrArg _ (if_pos notLast))
    obtain ⟨raster, trace, done, run⟩ := ih (s := { s with
      idx := s.idx + 1#6, turns := _, raster := _, trace := _ })
      (by simp only [counted]; omega) phase released rfl blk written
    exact ⟨raster, trace, done, (run_next _ s _ next).trans run⟩

end

/-! ### The block -/

/-- R182: what `next_block` does depends on the block's place in the image, and is a change of IDX,
BX, BY, PHASE and DONE. -/
theorem State.nextBlock_frame (s : State) (p q : BitVec 4) (idx : BitVec 6) (blk : Vector Byte 64)
    (source : List InAnswer) (raster : Memory) (turns : List Turn) (trace : List Event) :
    State.nextBlock
      { s with
        phase := q, idx := idx, blk := blk, source := source, raster := raster, turns := turns
        trace := trace } p =
    { s.nextBlock p with
      blk := blk, source := source, raster := raster, turns := turns, trace := trace } := by
  rw [State.nextBlock_eq, State.nextBlock_eq]
  split
  · rfl
  split
  · rfl
  · rfl

theorem State.nextBlock_idx (s : State) (p : BitVec 4) : (s.nextBlock p).idx = 0#6 := by
  rcases s.nextBlock_cases p with ⟨-, -, right⟩ | ⟨-, -, -, up⟩ | ⟨-, -, finish⟩
  · rw [right]
  · rw [up]
  · rw [finish]

/-- R190 to R193: 64 turns fill BLK, 64 turns drain it. -/
theorem run_block {s : State} {bs : List Byte} {rest : List InAnswer} {more : List Turn}
    (phase : s.phase = Phase.dFill) (first : s.idx = 0#6) (released : s.rst = false)
    (full : bs.length = 64) (source : s.source = bs.map .byte ++ rest)
    (moves : s.turns = List.replicate 128 .sequencer ++ more) :
    ∃ blk raster trace, BlockPixels s.bX s.bY (bs.getD · 0) s.raster raster 64 ∧
      Host.Core.run Sys2Proof.core 128 s = .next
        { s.nextBlock Phase.dFill with
          blk := blk, source := rest, raster := raster, turns := more, trace := trace } := by
  have start : s.idx.toNat = 0 := congrArg BitVec.toNat first
  obtain ⟨blk, filling, holds, fill⟩ := run_dFill (s := s) 63 (by omega) phase released full
    (more := List.replicate 64 .sequencer ++ more) (by rw [start]; exact source) moves
    (by rw [start]; exact blkHolds_zero _ _)
  obtain ⟨raster, trace, pixels, drain⟩ := run_dDrain (s := { s with
    blk := blk, trace := filling, source := rest, turns := _, idx := 0#6, phase := Phase.dDrain })
    63 rfl rfl released rfl holds (blockPixels_zero _ _ _ _)
  refine ⟨blk, raster, trace, pixels, (run_add 64 fill).trans (drain.trans (congrArg _ ?_))⟩
  exact s.nextBlock_frame Phase.dFill Phase.dDrain 63#6 blk rest raster more trace

/-- Settles O52: every index of a block is below 64, and `next_block` is the one of the state in
which the block began. -/
theorem oneBlockDecodes : Obligations.OneBlockDecodes := by
  unfold Obligations.OneBlockDecodes
  intro s bs rest more phase first released full source moves
  obtain ⟨blk, raster, trace, pixels, run⟩ := run_block phase first released full source moves
  exact ⟨_, run, rfl, rfl, fun i => pixels.written i i.isLt,
    fun x y other => pixels.untouched x y fun i _ => other i, rfl, rfl, rfl, rfl,
    s.nextBlock_idx Phase.dFill⟩

end Sys2Proof.Machine
end

section
/-! PROOF. The packed pixel: its two forms, and when packing and unpacking undo each other (R195,
R208, R209). -/

namespace Sys2Proof.Machine

/-! ### The packed pixel (R208) -/

/-- R208: the shifted luminance plus the high half of the alpha, the low 8 bits. -/
theorem packA8_toNat (px : Pixel) :
    (packA8 px).toNat =
      ((px.r.toNat + px.g.toNat + px.b.toNat) / 3 * 16 + px.a.toNat / 16) % 256 := by
  rw [packA8, BitVec.toNat_ofNat, Nat.shiftLeft_eq]

/-- The number of two half bytes side by side. -/
theorem halves_toNat (high low : BitVec 4) :
    (high ++ low).toNat = high.toNat * 16 + low.toNat := by
  rw [BitVec.toNat_append, ← Nat.shiftLeft_add_eq_or_of_lt low.isLt, Nat.shiftLeft_eq]

/-- Settles O36: above the four bits of `A / 16`, 8 bits keep four of the luminance. -/
theorem packA8Rule : Obligations.PackA8Rule := by
  unfold Obligations.PackA8Rule
  intro px lum
  refine ⟨packA8_toNat px, BitVec.eq_of_toNat_eq ?_⟩
  have alpha := px.a.isLt
  rw [halves_toNat, packA8_toNat, BitVec.toNat_ofNat, BitVec.extractLsb'_toNat,
    Nat.shiftRight_eq_div_pow]
  omega

/-! ### The two inverse laws (R209) -/

/-- R195: a pixel is the unpacked byte iff its channels are the byte's halves. -/
theorem unpackA8_eq_iff (v : Byte) (px : Pixel) :
    unpackA8 v = px ↔ v.toNat / 16 = px.r.toNat ∧ v.toNat / 16 = px.g.toNat ∧
      v.toNat / 16 = px.b.toNat ∧ v.toNat % 16 * 16 = px.a.toNat := by
  obtain ⟨r, g, b, a⟩ := px
  simp only [unpackA8, Pixel.mk.injEq, ← BitVec.toNat_inj, luminance_toNat, alpha_toNat]

/-- R209: the average of three equal channels is the channel. -/
theorem packA8_unpackA8 (v : Byte) : packA8 (unpackA8 v) = v := by
  have byte := v.isLt
  obtain ⟨red, green, blue, alpha⟩ := unpackA8Rule v
  apply BitVec.eq_of_toNat_eq
  rw [packA8_toNat, red, green, blue, alpha]
  omega

/-- R209: the pixels that lose nothing are those whose channels a byte's halves can be. -/
theorem unpackA8_packA8_iff (px : Pixel) :
    unpackA8 (packA8 px) = px ↔
      px.r = px.g ∧ px.g = px.b ∧ px.r.toNat ≤ 15 ∧ px.a.toNat % 16 = 0 := by
  have alpha := px.a.isLt
  rw [unpackA8_eq_iff, packA8_toNat, ← BitVec.toNat_inj, ← BitVec.toNat_inj]
  constructor
  · rintro ⟨red, green, blue, low⟩
    omega
  · rintro ⟨redGreen, greenBlue, small, multiple⟩
    have average : (px.r.toNat + px.g.toNat + px.b.toNat) / 3 = px.r.toNat := by omega
    rw [average]
    omega

/-- Settles O37: the second law says which pixels are an unpacked byte. -/
theorem packAndUnpackInverses : Obligations.PackAndUnpackInverses :=
  ⟨packA8_unpackA8, unpackA8_packA8_iff⟩

end Sys2Proof.Machine
end

section
/-! PROOF. One E_GATHER step and one E_EMIT step: the packed pixel in BLK, the byte to the sink
(R205, R208, R210). -/

namespace Sys2Proof.Machine

/-- R205: the pixel of IDX is read, its packed byte lands in BLK[IDX]. -/
theorem exec_eGather (s : State) :
    let xy := pixelAt s.bX s.bY s.idx
    exec .stepEGather s = .next (State.nextInBlock
      { (s.rasRead xy.1 xy.2).2 with
        blk := blkSet s.blk s.idx (packA8 (s.raster.pixel xy.1 xy.2)) } Phase.eEmit) := rfl

/-- Settles O25: `nextInBlock` tells the 64th pixel of a block from the others. -/
theorem gatherStep : Obligations.GatherStep := by
  unfold Obligations.GatherStep
  intro s x y px s1
  rw [exec_eGather]
  rfl

/-- Settles O26: the byte is accepted, and `nextInDrain` is what follows. -/
theorem emitStep : Obligations.EmitStep := by
  unfold Obligations.EmitStep
  intro s more accepts
  obtain ⟨ok, rest⟩ := Sink.next_rest_of_ok accepts
  rcases exec_eEmit_cases s with ⟨-, sent⟩ | ⟨fail, -⟩
  · rw [sent, rest]
    rfl
  · cases ok.symm.trans fail

end Sys2Proof.Machine
end

section
/-! PROOF. An ENCODE after a DECODE writes the payload that the DECODE read (R183, R209, R213). -/

namespace Sys2Proof.Machine

section
variable {file payload : List Byte} {before : Memory} {t u : State}

/-- R209, R213: a payload of the decoded raster holds the file's payload byte at every position,
because every position is that of a pixel and packing undoes unpacking. -/
theorem DecodedWell.payload_getElem? (decoded : DecodedWell file before t)
    (has : t.hasPayload payload) {k : Nat} (within : k < t.payloadSize) :
    payload[k]? = file[t.payoff.toNat + k]? := by
  obtain ⟨-, width, height⟩ := decoded.checked
  obtain ⟨x, y, column, row, position⟩ := exists_payloadPos width height within
  obtain ⟨bound, -⟩ := decoded.consumed
  obtain ⟨-, packed⟩ := has
  have inFile : t.payoff.toNat + k < file.length := by omega
  rw [← position, packed x y ⟨column, row⟩, decoded.pixels x y ⟨column, row⟩, packA8_unpackA8,
    position, List.getD_eq_getElem _ _ inFile, List.getElem?_eq_getElem inFile]

/-- R213: a payload of the decoded raster is the payload of the file. -/
theorem DecodedWell.payload_eq (decoded : DecodedWell file before t)
    (has : t.hasPayload payload) :
    payload = (file.drop t.payoff.toNat).take t.payloadSize := by
  rw [← List.take_of_length_le has.1.le]
  apply List.ext_getElem?
  intro k
  rw [List.getElem?_take, List.getElem?_take, List.getElem?_drop]
  split
  · next within => exact decoded.payload_getElem? has within
  · rfl

/-- What payload an ENCODE writes depends on the image alone. -/
theorem State.hasPayload_congr (width : u.width = t.width) (height : u.height = t.height)
    (raster : u.raster = t.raster) : u.hasPayload payload ↔ t.hasPayload payload := by
  simp only [State.hasPayload, State.payloadSize, State.inside, width, height, raster]

end

/-- Settles O59: the good end of the ENCODE gives a payload of the raster, the good end of the
DECODE says which one it is. -/
theorem payloadRoundTrip : Obligations.PayloadRoundTrip := by
  unfold Obligations.PayloadRoundTrip
  intro file n m s t u v source decode tIdle tDone uIdle fmtid width height raster encode vIdle
    vDone
  have decoded := decodeThatEndsWell file n s t source decode tIdle tDone
  have encoded := encodeThatEndsWell m u v uIdle encode vIdle vDone
  obtain ⟨payload, output, has⟩ := encoded.output
  obtain ⟨-, format, -⟩ := decoded.fixedFields
  rw [State.hasPayload_congr width height raster] at has
  rw [output, fmtid, format, width, height, decoded.payload_eq has]

end Sys2Proof.Machine
end

section
/-! PROOF. The errors and the good end as assignments, and a transfer answered `Fail` (R122, R220,
R221, R228). -/

namespace Sys2Proof.Machine

/-- Settles O28: each part is one of the model's own assignments. -/
theorem raiseAndFinishWriteNoMore : Obligations.RaiseAndFinishWriteNoMore := by
  unfold Obligations.RaiseAndFinishWriteNoMore
  refine ⟨?codes, ?raise, ?finish⟩
  case codes => exact ⟨rfl, rfl, rfl, rfl, rfl, rfl, rfl⟩
  case raise =>
    intro s e
    rfl
  case finish =>
    intro s
    rfl

section
variable {s : State}

/-- R52: what is left of a stream that has refused, with answers to come or at its end. -/
theorem tail_of_refused {source rest : List InAnswer}
    (refused : source = .fail :: rest ∨ (source = [] ∧ rest = [])) : source.tail = rest := by
  rcases refused with rfl | ⟨rfl, rfl⟩
  · rfl
  · rfl

/-- R52, R221: with no byte at hand, D_HDR, D_PAD and D_FILL all end in IOError. -/
theorem exec_in_fail {rest : List InAnswer}
    (refused : s.source = .fail :: rest ∨ (s.source = [] ∧ rest = [])) :
    let s1 := State.raise { s with source := rest, trace := .inFail :: s.trace } .ioError
    exec .stepDHdr s = .next s1 ∧ exec .stepDPad s = .next s1 ∧ exec .stepDFill s = .next s1 := by
  rcases exec_in_cases s with ⟨b, rest', byte, -⟩ | ⟨rest', refused', raised⟩
  · rcases refused with source | ⟨source, -⟩
    · cases byte.symm.trans source
    · cases byte.symm.trans source
  · cases (tail_of_refused refused).symm.trans (tail_of_refused refused')
    exact raised

/-- R55: the next answer of a sink, from its list or for ever after it, and what is left of it. -/
theorem Sink.next_rest_of {k : Sink} {answer : OutAnswer} {more : List OutAnswer}
    (answers : k.answers = answer :: more ∨
      (k.answers = [] ∧ k.thereafter = answer ∧ more = [])) :
    Sink.next k = answer ∧ Sink.rest k = { k with answers := more } := by
  cases k
  rcases answers with rfl | ⟨rfl, rfl, rfl⟩
  · exact ⟨rfl, rfl⟩
  · exact ⟨rfl, rfl⟩

/-- R55, R221: with a sink that refuses, E_HDR and E_EMIT end in IOError, each with its byte
refused. -/
theorem exec_out_fail (refuses : Sink.next s.sink = .fail) :
    let raised (b : Byte) :=
      State.raise { s with sink := Sink.rest s.sink, trace := .outFail b :: s.trace } .ioError
    exec .stepEHdr s = .next (raised (headerByte s.fmtid s.width s.height s.hcnt.toNat)) ∧
      exec .stepEEmit s = .next (raised (blkGet s.blk s.idx)) := by
  constructor
  · rcases exec_eHdr_cases s with ⟨ok, -⟩ | ⟨-, fail⟩
    · cases ok.symm.trans refuses
    · exact fail
  · rcases exec_eEmit_cases s with ⟨ok, -⟩ | ⟨-, fail⟩
    · cases ok.symm.trans refuses
    · exact fail

end

/-- Settles O27: on IN one refusal serves the three steps, on OUT the refused byte is the step's
own. -/
theorem failedTransferRaisesIOError : Obligations.FailedTransferRaisesIOError := by
  unfold Obligations.FailedTransferRaisesIOError
  intro s
  refine ⟨fun i rest step refused => ?_, fun more refuses => ?_⟩
  · obtain ⟨hdr, pad, fill⟩ := exec_in_fail refused
    rcases step with rfl | rfl | rfl
    · exact hdr
    · exact pad
    · exact fill
  · obtain ⟨fail, left⟩ := Sink.next_rest_of refuses
    rw [← left]
    exact exec_out_fail fail

end Sys2Proof.Machine
end

section
/-! PROOF. An ENCODE that an error ended has written a proper initial part of its file, or nothing (R112,
R221, R230). -/

namespace Sys2Proof.Machine

section
variable {s0 s : State}

/-- R112: a check of ENCODE that fails is not an IOError. -/
theorem State.startEncode_errcode_ne (s : State) : s.startEncode.errcode ≠ Error.ioError.code := by
  rw [State.startEncode_eq]
  split
  · exact (by decide : Error.unsupportedFormat.code ≠ Error.ioError.code)
  split
  · exact (by decide : Error.widthNotMultipleOf8.code ≠ Error.ioError.code)
  split
  · exact (by decide : Error.heightNotMultipleOf8.code ≠ Error.ioError.code)
  · exact (by decide : 0#4 ≠ Error.ioError.code)

/-- R59, R112: the command reads the image and changes nothing of it. -/
theorem State.startEncode_kept (s : State) :
    s.startEncode.fmtid = s.fmtid ∧ s.startEncode.width = s.width ∧
      s.startEncode.height = s.height ∧ s.startEncode.raster = s.raster := by
  have same := s.startEncode_image
  simp only [State.image, Prod.mk.injEq] at same
  obtain ⟨-, fmtid, width, height, -, -, -, raster⟩ := same
  exact ⟨fmtid, width, height, raster⟩

/-- R112: an image whose checks have passed has a payload. -/
theorem State.Encodes.hasPayload (image : s0.Encodes s) : s0.hasPayload s0.payload := by
  obtain ⟨-, width, height, -⟩ := image.kept
  exact State.hasPayload_payload (width ▸ image.width) (height ▸ image.height)

/-- R230: what the sink has accepted is an initial part of the file, shorter than the whole. -/
theorem State.Sent.properPrefix {n : Nat} (image : s0.Encodes s) (sent : s.Sent s0.outBytes n)
    (within : n < 128 + s.payloadSize) :
    ∃ written : List Byte, s.outBytes = s0.outBytes ++ written ∧ written <+: s0.encodedFile ∧
      written.length < 128 + s0.payloadSize := by
  obtain ⟨-, width, height, -⟩ := image.kept
  rw [State.payloadSize, width, height] at within
  rw [State.Sent, image.encodedFile_eq] at sent
  exact ⟨s0.encodedFile.take n, sent, List.take_prefix _ _,
    (List.length_take_le _ _).trans_lt within⟩

end

/-- Settles O60: of the moments of an ENCODE only a failed check and a refused byte carry an error;
the check has sent nothing, the refused byte comes after a proper initial part. -/
theorem faultedEncodeWroteAPrefix : Obligations.FaultedEncodeWroteAPrefix := by
  unfold Obligations.FaultedEncodeWroteAPrefix
  intro n s t _ run idle error
  rcases encode_progress run with ⟨rfl, -, -⟩ | progress
  · have silent := s.startEncode_trace
    exact ⟨s.startEncode_kept, fun ioError => absurd ioError s.startEncode_errcode_ne,
      fun _ => ⟨congrArg (fun trace => trace.reverse.filterMap Event.outByte) silent, silent⟩⟩
  cases progress with
  | header phase => exact absurd (phase.symm.trans idle) (by decide)
  | gather phase => exact absurd (phase.symm.trans idle) (by decide)
  | emit phase => exact absurd (phase.symm.trans idle) (by decide)
  | ended well => exact absurd well.ended.2.2 error
  | failed phase image ioError sent =>
    obtain ⟨n, within, sent⟩ := sent
    obtain ⟨written, output, isPrefix, shorter⟩ := sent.properPrefix image within
    exact ⟨image.kept,
      fun _ => ⟨s.payload, written, image.hasPayload, output, isPrefix, shorter⟩,
      fun other => absurd ioError other⟩

end Sys2Proof.Machine
end

section
/-! PROOF. The input `rst`: its assertion, and what moves while it stays asserted (R233, R250,
R251). -/

namespace Sys2Proof.Machine

/-- Settles O33: the assertion carries no code word, so the step is the host's own act. -/
theorem rstAssertionResetsTheBlock : Obligations.RstAssertionResetsTheBlock := by
  unfold Obligations.RstAssertionResetsTheBlock
  intro s rest moves
  have noCode : s.pending = none := by simp [State.pending, moves]
  refine ⟨_, step_of_no_code noCode, ?_⟩
  rw [quietStep_of_turns moves]
  exact ⟨State.applyReset_atReset _, rfl, rfl, rfl, rfl, rfl, rfl⟩

/-- R250: of a block held by `rst` an agent's move leaves every register, counter and BLK, unless
the host asserts `rst` anew. -/
theorem agentAct_of_asserted {s : State} (asserted : s.rst = true) {turn : Turn}
    (other : turn ≠ .host .rstAssert) :
    agentAct turn s = { s with
      turns := (agentAct turn s).turns, trace := (agentAct turn s).trace
      rst := (agentAct turn s).rst, source := (agentAct turn s).source
      sink := (agentAct turn s).sink, raster := (agentAct turn s).raster } := by
  cases turn with
  | sequencer | source | sink | raster => rfl
  | host a =>
    cases a with
    | csrRead | rstRelease => rfl
    | csrWrite off size v =>
      have ignored : agentAct (.host (.csrWrite off size v)) s = s := if_pos asserted
      rw [ignored]
    | rstAssert => exact absurd rfl other
    | waitIdle =>
      simp only [agentAct, hostAct]
      split <;> rfl

/-- Settles O34: under `rst` no code word is at hand, so the step is the act of the agent whose move
comes next. -/
theorem rstHoldsTheBlock : Obligations.RstHoldsTheBlock := by
  unfold Obligations.RstHoldsTheBlock
  intro s t asserted other h
  cases (step_of_no_code (State.pending_asserted asserted)).symm.trans h
  cases moves : s.turns with
  | nil =>
    have same : quietStep s = s := by simp only [quietStep, moves]
    rw [same]
  | cons turn rest =>
    have notAssert : turn ≠ .host .rstAssert := fun assert => other (by rw [moves, assert]; rfl)
    rw [quietStep_of_turns moves]
    exact agentAct_of_asserted (s := { s with turns := rest }) asserted notAssert

end Sys2Proof.Machine
end

section
/-! PROOF. The transfers of a record, counted (R66, R262). -/

namespace Sys2Proof.Machine

/-- How many transfers of each kind a record shows; `bytes` are the IN transfers that were not
answered `Fail`. -/
structure Tally where
  ins : Nat
  bytes : Nat
  outs : Nat
  writes : Nat
  reads : Nat

def tally (events : List Event) : Tally where
  ins := events.countP Event.isIn
  bytes := events.countP fun e => Event.isIn e && e != .inFail
  outs := events.countP Event.isOut
  writes := events.countP Event.isRasWrite
  reads := events.countP Event.isRasRead

/-- One event more. -/
def Tally.add (n : Tally) : Event → Tally
  | .inByte _ => { n with ins := n.ins + 1, bytes := n.bytes + 1 }
  | .inFail => { n with ins := n.ins + 1 }
  | .outOk _ | .outFail _ => { n with outs := n.outs + 1 }
  | .rasWrite _ _ _ => { n with writes := n.writes + 1 }
  | .rasRead _ _ _ => { n with reads := n.reads + 1 }
  | .csrRead _ _ => n

theorem tally_cons (e : Event) (events : List Event) :
    tally (e :: events) = (tally events).add e := by
  cases e with
  | _ =>
    simp [tally, Tally.add, List.countP_cons, Event.isIn, Event.isOut, Event.isRasWrite,
      Event.isRasRead]

theorem tally_noTransfer {new : List Event} (silent : ∀ e ∈ new, Event.isTransfer e = false)
    (events : List Event) : tally (new ++ events) = tally events := by
  induction new with
  | nil => rfl
  | cons e new ih =>
    obtain ⟨none, silent⟩ := List.forall_mem_cons.mp silent
    rw [List.cons_append, tally_cons, ih silent]
    cases e with
    | csrRead => rfl
    | _ => cases none

/-- Since the record was `before`, so many transfers have been made. -/
def State.Made (before : List Event) (s : State) (n : Tally) : Prop :=
  ∃ new : List Event, s.trace = new ++ before ∧ tally new = n

section
variable {before : List Event} {s t : State} {n : Tally}

theorem State.Made.cons {e : Event} (made : s.Made before n) (seen : t.trace = e :: s.trace) :
    t.Made before (n.add e) := by
  obtain ⟨new, grown, rfl⟩ := made
  exact ⟨e :: new, by rw [seen, grown, List.cons_append], tally_cons e new⟩

theorem State.Made.noTransferTo (made : s.Made before n) (silent : s.NoTransferTo t) :
    t.Made before n := by
  obtain ⟨new, grown, rfl⟩ := made
  obtain ⟨more, after, none⟩ := silent
  exact ⟨more ++ new, by rw [after, grown, List.append_assoc], tally_noTransfer none new⟩

end

end Sys2Proof.Machine
end

section
/-! PROOF. The registers tell how many transfers a DECODE has made (R262). -/

namespace Sys2Proof.Machine

/-- R262: how many IN transfers precede an error of a header check; an IOError can come after any
number, and 0 stands there. -/
def Error.insBefore (payoff : Word) : Error → Nat
  | .ioError => 0
  | .invalidHeader => 4
  | .unsupportedFormat => 8
  | .payloadStartsTooSoon | .pixelLengthInvalid => 28
  | .widthNotMultipleOf8 | .heightNotMultipleOf8 => payoff.toNat

/-- A DECODE that no failed transfer has ended, after `n` IN transfers counted from `start` on and
`w` raster writes. -/
inductive State.Decoding (s : State) (start n w : Nat) : Prop where
  | header (here : s.isIn Phase.dHdr) (count : s.hcnt.toNat ≤ 27)
      (format : 8 ≤ s.hcnt.toNat → s.fmtid = 8#32) (ins : n = start + s.hcnt.toNat) (writes : w = 0)
  | padding (here : s.isIn Phase.dPad) (format : s.fmtid = 8#32) (more : 1 ≤ s.skip.toNat)
      (ins : n + s.skip.toNat = start + s.payoff.toNat) (writes : w = 0)
  | fill (here : s.isIn Phase.dFill) (blocks : s.InBlocks)
      (ins : n = start + s.payoff.toNat + (64 * s.group + s.idx.toNat)) (writes : w = 64 * s.group)
  | drain (here : s.isIn Phase.dDrain) (blocks : s.InBlocks)
      (ins : n = start + s.payoff.toNat + (64 * s.group + 64))
      (writes : w = 64 * s.group + s.idx.toNat)
  | ended (here : s.isDone) (ins : n = start + s.payoff.toNat + s.payloadSize)
      (writes : w = s.payloadSize)
  | failed (e : Error) (here : s.isErr e) (check : e ≠ .ioError)
      (ins : n = start + e.insBefore s.payoff)

section
variable {s t : State} {start n w : Nat}

/-- What the agents around the block change is no register. -/
theorem State.Decoding.withAgents (decoding : s.Decoding start n w) (turns : List Turn)
    (trace : List Event) (rst : Bool) (source : List InAnswer) (sink : Sink) (raster : Memory) :
    State.Decoding
      { s with
        turns := turns, trace := trace, rst := rst, source := source, sink := sink
        raster := raster } start n w := by
  cases decoding with
  | header here count format ins writes => exact .header here count format ins writes
  | padding here format more ins writes => exact .padding here format more ins writes
  | fill here blocks ins writes => exact .fill here { blocks with } ins writes
  | drain here blocks ins writes => exact .drain here { blocks with } ins writes
  | ended here ins writes => exact .ended here ins writes
  | failed e here check ins => exact .failed e here check ins

theorem State.startDecode_decoding (s : State) : s.startDecode.Decoding 0 0 0 :=
  .header ⟨rfl, rfl, rfl⟩ (Nat.zero_le _) (fun read => nomatch read) rfl rfl

/-! ### The padding and the header -/

/-- R141, R181: the bytes before the payload have all been read. -/
theorem State.paddingComplete_decoding (format : s.fmtid = 8#32)
    (clear : s.done = false ∧ s.errcode = 0#4) (ins : n = start + s.payoff.toNat) :
    s.paddingComplete.Decoding start n 0 := by
  obtain ⟨notDone, noError⟩ := clear
  rcases s.paddingComplete_cases with ⟨-, raised⟩ | ⟨-, -, raised⟩ | ⟨width, height, begins⟩
  · rw [raised]
    exact .failed .widthNotMultipleOf8 ⟨rfl, notDone, rfl⟩ (by decide) ins
  · rw [raised]
    exact .failed .heightNotMultipleOf8 ⟨rfl, notDone, rfl⟩ (by decide) ins
  rw [begins]
  rcases State.startBlocks_group ((resolve_some _ .a8).mpr format) width height Phase.dFill with
    ⟨empty, finish⟩ | ⟨bX, bY, first, blocks, group⟩
  · rw [finish]
    exact .ended ⟨rfl, rfl, noError⟩ (ins.trans (congrArg (_ + ·) empty.symm)) empty.symm
  · rw [first] at blocks group ⊢
    refine .fill ⟨rfl, notDone, noError⟩ blocks ?_ ?_
    all_goals rw [group]
    exact ins

/-- R131: the header goes on after its first `k` bytes. -/
theorem State.Decoding.headerAt (k : Nat) (here : s.isIn Phase.dHdr) (counted : s.hcnt.toNat = k)
    (within : k ≤ 27) (format : 8 ≤ k → s.fmtid = 8#32) : s.Decoding start (start + k) 0 := by
  subst counted
  exact .header here within format rfl rfl

/-- R131: a byte of the header, inside a field or at its end. -/
theorem headerByteIn_decoding (here : s.isIn Phase.dHdr) (count : s.hcnt.toNat ≤ 27)
    (format : 8 ≤ s.hcnt.toNat → s.fmtid = 8#32) (b : Byte) :
    (headerByteIn b s).Decoding start (start + s.hcnt.toNat + 1) 0 := by
  by_cases inside : s.hcnt.toNat % 4 ≠ 3
  · rw [headerByteIn_inside b inside (by omega), Nat.add_assoc]
    exact .headerAt _ here (hcnt_succ s.hcnt (by omega)) (by omega) fun read => format (by omega)
  have place (k : Nat) (small : k < 128) (same : s.hcnt.toNat = k) : s.hcnt = BitVec.ofNat 7 k :=
    BitVec.eq_of_toNat_eq (by rw [same, BitVec.toNat_ofNat, Nat.mod_eq_of_lt small])
  rcases (by omega : s.hcnt.toNat = 3 ∨ s.hcnt.toNat = 7 ∨ s.hcnt.toNat = 11 ∨ s.hcnt.toNat = 15 ∨
      s.hcnt.toNat = 19 ∨ s.hcnt.toNat = 23 ∨ s.hcnt.toNat = 27) with
    last | last | last | last | last | last | last
  all_goals
    have count := place _ (by omega) last
    rw [last] at format ⊢
  · rw [headerByteIn_magic b count]
    simp only
    split
    · refine .headerAt 4 ?_ rfl (by omega) (by omega)
      exact here
    · exact .failed .invalidHeader ⟨rfl, here.2.1, rfl⟩ (by decide) rfl
  · rw [headerByteIn_fmtid b count]
    simp only
    split
    · next known =>
      refine .headerAt 8 ?_ rfl (by omega) fun _ => known
      exact here
    · exact .failed .unsupportedFormat ⟨rfl, here.2.1, rfl⟩ (by decide) rfl
  · rw [headerByteIn_width b count]
    refine .headerAt 12 ?_ rfl (by omega) fun _ => format (by omega)
    exact here
  · rw [headerByteIn_height b count]
    refine .headerAt 16 ?_ rfl (by omega) fun _ => format (by omega)
    exact here
  · rw [headerByteIn_pixbits b count]
    refine .headerAt 20 ?_ rfl (by omega) fun _ => format (by omega)
    exact here
  · rw [headerByteIn_reserved b count]
    refine .headerAt 24 ?_ rfl (by omega) fun _ => format (by omega)
    exact here
  obtain ⟨-, notDone, noError⟩ := here
  have known := format (by decide)
  rw [headerByteIn_payoff b count known]
  generalize insertByte s.acc 3 b = v
  simp only
  split
  · exact .failed .pixelLengthInvalid ⟨rfl, notDone, rfl⟩ (by decide) rfl
  split
  · exact .failed .payloadStartsTooSoon ⟨rfl, notDone, rfl⟩ (by decide) rfl
  split
  · next none =>
    refine State.paddingComplete_decoding known ⟨notDone, noError⟩ ?_
    rw [none]
  · next some =>
    have skip : (BitVec.ofNat 32 (v.toNat - 28)).toNat = v.toNat - 28 := by
      rw [BitVec.toNat_ofNat]
      omega
    refine .padding ⟨rfl, notDone, noError⟩ known ?_ ?_ rfl
    all_goals
      simp only [skip]
      omega

/-- R143: a padding byte. -/
theorem paddingByteIn_decoding (here : s.isIn Phase.dPad) (format : s.fmtid = 8#32)
    (more : 1 ≤ s.skip.toNat) (ins : n + s.skip.toNat = start + s.payoff.toNat) :
    (paddingByteIn s).Decoding start (n + 1) 0 := by
  rw [paddingByteIn_eq]
  split
  · next last =>
    rw [last] at ins
    exact State.paddingComplete_decoding (s := { s with skip := _ }) format here.2 ins
  · next left =>
    have counted : (s.skip - 1#32).toNat = s.skip.toNat - 1 := by bv_omega
    refine .padding here format ?_ ?_ rfl
    · simp only [counted]
      bv_omega
    · simp only [counted]
      omega

/-! ### The blocks -/

/-- R190: a payload byte. -/
theorem State.nextInBlock_decoding (here : s.isIn Phase.dFill) (blocks : s.InBlocks) :
    (s.nextInBlock Phase.dDrain).Decoding start
      (start + s.payoff.toNat + (64 * s.group + s.idx.toNat) + 1) (64 * s.group) := by
  have index := s.idx.isLt
  unfold State.nextInBlock
  split
  · next more =>
    refine .fill here { blocks with } ?_ rfl
    simp only [idx_succ _ more]
    rfl
  · next last =>
    refine .drain ⟨rfl, here.2⟩ { blocks with } ?_ rfl
    have full : s.idx.toNat = 63 := by omega
    rw [full]
    rfl

/-- R192, R182: a pixel. -/
theorem State.nextInDrain_decoding (here : s.isIn Phase.dDrain) (blocks : s.InBlocks) :
    (s.nextInDrain Phase.dFill).Decoding start (start + s.payoff.toNat + (64 * s.group + 64))
      (64 * s.group + s.idx.toNat + 1) := by
  have index := s.idx.isLt
  unfold State.nextInDrain
  split
  · next more =>
    refine .drain here { blocks with } rfl ?_
    simp only [idx_succ _ more]
    rfl
  next last =>
  have full : s.idx.toNat = 63 := by omega
  rw [full]
  rcases blocks.nextBlock_group Phase.dFill with ⟨bX, bY, another, inside, group⟩ | ⟨finish, whole⟩
  · rw [another] at inside group ⊢
    refine .fill ⟨rfl, here.2⟩ inside ?_ ?_
    all_goals rw [group]
    all_goals rfl
  · rw [finish]
    exact .ended ⟨rfl, rfl, here.2.2⟩ (congrArg _ whole) whole

/-! ### The operations of the phases -/

/-- Everything an operation of the sequencer does to a DECODE: a byte comes in, the transfer fails,
or a pixel is written. -/
theorem State.Decoding.exec (decoding : s.Decoding start n w) {i : Instr}
    (code : encode i = .phase s.phase) (busy : s.phase ≠ Phase.idle) (h : exec i s = .next t) :
    (∃ b, t.trace = .inByte b :: s.trace ∧ t.Decoding start (n + 1) w) ∨
    (t.trace = .inFail :: s.trace ∧ t.isErr .ioError) ∨
    (∃ x y px, t.trace = .rasWrite x y px :: s.trace ∧ t.Decoding start n (w + 1)) := by
  cases decoding with
  | header here count format ins writes =>
    cases instr_of_phase code here.1 rfl
    subst ins writes
    rcases exec_in_cases s with ⟨b, rest, -, ok, -, -⟩ | ⟨rest, -, fail, -, -⟩
    · cases ok.symm.trans h
      refine .inl ⟨b, headerByteIn_trace _ b, headerByteIn_decoding ?_ ?_ ?_ b⟩
      · exact here
      · exact count
      · exact format
    · cases fail.symm.trans h
      exact .inr (.inl ⟨rfl, rfl, here.2.1, rfl⟩)
  | padding here format more ins writes =>
    cases instr_of_phase code here.1 rfl
    subst writes
    rcases exec_in_cases s with ⟨b, rest, -, -, ok, -⟩ | ⟨rest, -, -, fail, -⟩
    · cases ok.symm.trans h
      exact .inl ⟨b, paddingByteIn_trace _, paddingByteIn_decoding here format more ins⟩
    · cases fail.symm.trans h
      exact .inr (.inl ⟨rfl, rfl, here.2.1, rfl⟩)
  | fill here blocks ins writes =>
    cases instr_of_phase code here.1 rfl
    subst ins writes
    rcases exec_in_cases s with ⟨b, rest, -, -, -, ok⟩ | ⟨rest, -, -, -, fail⟩
    · cases ok.symm.trans h
      exact .inl ⟨b, State.nextInBlock_trace _ _,
        State.nextInBlock_decoding (s := { s with source := _, trace := _, blk := _ }) here
          { blocks with }⟩
    · cases fail.symm.trans h
      exact .inr (.inl ⟨rfl, rfl, here.2.1, rfl⟩)
  | drain here blocks ins writes =>
    cases instr_of_phase code here.1 rfl
    subst ins writes
    cases (exec_dDrain s).symm.trans h
    exact .inr (.inr ⟨_, _, _, State.nextInDrain_trace _ _,
      State.nextInDrain_decoding (s := s.rasWrite _ _ _) here { blocks with }⟩)
  | ended here => exact absurd here.1 busy
  | failed e here => exact absurd here.1 busy

end

end Sys2Proof.Machine
end

section
/-! PROOF. The registers tell how many transfers an ENCODE has made (R262). -/

namespace Sys2Proof.Machine

/-- An ENCODE that no refused byte has ended, after `n` OUT transfers and `r` raster reads. -/
inductive State.Encoding (s : State) (n r : Nat) : Prop where
  | header (here : s.isIn Phase.eHdr) (format : resolve s.fmtid = some .a8)
      (width : s.width.toNat % 8 = 0) (height : s.height.toNat % 8 = 0) (outs : n = s.hcnt.toNat)
      (reads : r = 0)
  | gather (here : s.isIn Phase.eGather) (blocks : s.InBlocks) (outs : n = 128 + 64 * s.group)
      (reads : r = 64 * s.group + s.idx.toNat)
  | emit (here : s.isIn Phase.eEmit) (blocks : s.InBlocks)
      (outs : n = 128 + (64 * s.group + s.idx.toNat)) (reads : r = 64 * s.group + 64)
  | ended (here : s.isDone) (outs : n = 128 + s.payloadSize) (reads : r = s.payloadSize)

section
variable {s t : State} {n r : Nat}

/-- What the agents around the block change is no register. -/
theorem State.Encoding.withAgents (encoding : s.Encoding n r) (turns : List Turn)
    (trace : List Event) (rst : Bool) (source : List InAnswer) (sink : Sink) (raster : Memory) :
    State.Encoding
      { s with
        turns := turns, trace := trace, rst := rst, source := source, sink := sink
        raster := raster } n r := by
  cases encoding with
  | header here format width height outs reads => exact .header here format width height outs reads
  | gather here blocks outs reads => exact .gather here { blocks with } outs reads
  | emit here blocks outs reads => exact .emit here { blocks with } outs reads
  | ended here outs reads => exact .ended here outs reads

/-- R122: in IDLE it has ended well. -/
theorem State.Encoding.of_idle (encoding : s.Encoding n r) (idle : s.phase = Phase.idle) :
    s.isDone ∧ n = 128 + s.payloadSize ∧ r = s.payloadSize := by
  cases encoding with
  | header here => exact absurd (here.1.symm.trans idle) (by decide)
  | gather here => exact absurd (here.1.symm.trans idle) (by decide)
  | emit here => exact absurd (here.1.symm.trans idle) (by decide)
  | ended here outs reads => exact ⟨here, outs, reads⟩

/-- R112: an ENCODE whose checks pass has made no transfer. -/
theorem State.startEncode_encoding (format : s.fmtid = 8#32) (width : s.width.toNat % 8 = 0)
    (height : s.height.toNat % 8 = 0) : s.startEncode.Encoding 0 0 := by
  rw [State.startEncode_eq, if_neg (not_not.mpr format), if_neg (not_not.mpr width),
    if_neg (not_not.mpr height)]
  exact .header ⟨rfl, rfl, rfl⟩ ((resolve_some _ _).mpr format) width height rfl rfl

/-- R161: a header byte. -/
theorem headerByteOut_encoding (here : s.isIn Phase.eHdr) (format : resolve s.fmtid = some .a8)
    (width : s.width.toNat % 8 = 0) (height : s.height.toNat % 8 = 0) :
    (headerByteOut s).Encoding (s.hcnt.toNat + 1) 0 := by
  have count := s.hcnt.isLt
  unfold headerByteOut
  split
  · next more => exact .header here format width height (hcnt_succ _ more).symm rfl
  next last =>
  have full : s.hcnt.toNat = 127 := by omega
  rw [full]
  rcases State.startBlocks_group format width height Phase.eGather with
    ⟨empty, finish⟩ | ⟨bX, bY, first, blocks, group⟩
  · rw [finish]
    exact .ended ⟨rfl, rfl, here.2.2⟩ (congrArg (128 + ·) empty.symm) empty.symm
  · rw [first] at blocks group ⊢
    refine .gather ⟨rfl, here.2⟩ blocks ?_ ?_
    all_goals rw [group]
    rfl

/-- R205: a pixel. -/
theorem State.nextInBlock_encoding (here : s.isIn Phase.eGather) (blocks : s.InBlocks) :
    (s.nextInBlock Phase.eEmit).Encoding (128 + 64 * s.group) (64 * s.group + s.idx.toNat + 1) := by
  have index := s.idx.isLt
  unfold State.nextInBlock
  split
  · next more =>
    refine .gather here { blocks with } rfl ?_
    simp only [idx_succ _ more]
    rfl
  · next last =>
    refine .emit ⟨rfl, here.2⟩ { blocks with } rfl ?_
    have full : s.idx.toNat = 63 := by omega
    rw [full]
    rfl

/-- R210, R182: a payload byte. -/
theorem State.nextInDrain_encoding (here : s.isIn Phase.eEmit) (blocks : s.InBlocks) :
    (s.nextInDrain Phase.eGather).Encoding (128 + (64 * s.group + s.idx.toNat) + 1)
      (64 * s.group + 64) := by
  have index := s.idx.isLt
  unfold State.nextInDrain
  split
  · next more =>
    refine .emit here { blocks with } ?_ rfl
    simp only [idx_succ _ more]
    rfl
  next last =>
  have full : s.idx.toNat = 63 := by omega
  rw [full]
  rcases blocks.nextBlock_group Phase.eGather with
    ⟨bX, bY, another, inside, group⟩ | ⟨finish, whole⟩
  · rw [another] at inside group ⊢
    refine .gather ⟨rfl, here.2⟩ inside ?_ ?_
    all_goals rw [group]
    all_goals rfl
  · rw [finish]
    exact .ended ⟨rfl, rfl, here.2.2⟩ (congrArg (128 + ·) whole) whole

/-- Everything an operation of the sequencer does to an ENCODE: a byte is accepted, it is refused,
or a pixel is read. -/
theorem State.Encoding.exec (encoding : s.Encoding n r) {i : Instr}
    (code : encode i = .phase s.phase) (busy : s.phase ≠ Phase.idle) (h : exec i s = .next t) :
    (∃ b, t.trace = .outOk b :: s.trace ∧ t.Encoding (n + 1) r) ∨
    (Sink.next s.sink = .fail ∧ t.isErr .ioError) ∨
    (∃ x y px, t.trace = .rasRead x y px :: s.trace ∧ t.Encoding n (r + 1)) := by
  cases encoding with
  | header here format width height outs reads =>
    cases instr_of_phase code here.1 rfl
    subst outs reads
    rcases exec_eHdr_cases s with ⟨-, ok⟩ | ⟨refused, fail⟩
    · cases ok.symm.trans h
      exact .inl ⟨_, headerByteOut_trace _,
        headerByteOut_encoding (s := { s with sink := _, trace := _ }) here format width height⟩
    · cases fail.symm.trans h
      exact .inr (.inl ⟨refused, rfl, here.2.1, rfl⟩)
  | gather here blocks outs reads =>
    cases instr_of_phase code here.1 rfl
    subst outs reads
    cases (exec_eGather s).symm.trans h
    exact .inr (.inr ⟨_, _, _, State.nextInBlock_trace _ _,
      State.nextInBlock_encoding (s := { s with trace := _, blk := _ }) here { blocks with }⟩)
  | emit here blocks outs reads =>
    cases instr_of_phase code here.1 rfl
    subst outs reads
    rcases exec_eEmit_cases s with ⟨-, ok⟩ | ⟨refused, fail⟩
    · cases ok.symm.trans h
      exact .inl ⟨_, State.nextInDrain_trace _ _,
        State.nextInDrain_encoding (s := { s with sink := _, trace := _ }) here { blocks with }⟩
    · cases fail.symm.trans h
      exact .inr (.inl ⟨refused, rfl, here.2.1, rfl⟩)
  | ended here => exact absurd here.1 busy

end

end Sys2Proof.Machine
end

section
/-! PROOF. How many transfers a DECODE and an ENCODE make (R262). -/

namespace Sys2Proof.Machine

section
variable {before : List Event} {s t : State}

/-- A DECODE begun with the record `before`: its record shows what its registers tell, and a
transfer answered `Fail` beside that if one has ended it. -/
def State.DecodeCounts (before : List Event) (s : State) : Prop :=
  (∃ n w, s.Made before ⟨n, n, 0, w, 0⟩ ∧ s.Decoding 0 n w) ∨
  (∃ n w, s.Made before ⟨n + 1, n, 0, w, 0⟩ ∧ s.isErr .ioError)

/-- An ENCODE begun with the record `before`: its record shows what its registers tell, unless it
has ended badly. -/
def State.EncodeCounts (before : List Event) (s : State) : Prop :=
  (∃ n r, s.Made before ⟨0, 0, n, 0, r⟩ ∧ s.Encoding n r) ∨
  (s.phase = Phase.idle ∧ s.done = false)

/-- R257, R258: a step of an operation without `rst`. -/
theorem step_spared_cases {spares : Turn → Bool} (noReset : spares (.host .rstAssert) = false)
    (busy : s.phase ≠ Phase.idle) (spared : s.turns.all spares = true) (h : step s = .next t) :
    (∃ i, encode i = .phase s.phase ∧ exec i s.popTurn = .next t) ∨ s.AgentMoved t :=
  (step_busy_cases busy h).resolve_left fun assert =>
    Bool.false_ne_true (noReset.symm.trans (head_spared spared assert))

theorem State.DecodeCounts.step (counts : s.DecodeCounts before) (busy : s.phase ≠ Phase.idle)
    (spared : s.turns.all Turn.sparesDecode = true) (h : step s = .next t) :
    t.DecodeCounts before := by
  rcases counts with ⟨n, w, made, decoding⟩ | ⟨n, w, -, failed⟩
  · rcases step_spared_cases rfl busy spared h with ⟨i, code, run⟩ | moved
    · have decoding : s.popTurn.Decoding 0 n w := decoding.withAgents _ _ _ _ _ _
      rcases decoding.exec code busy run with
        ⟨b, seen, decoding⟩ | ⟨seen, failed⟩ | ⟨x, y, px, seen, decoding⟩
      · exact .inl ⟨_, _, made.cons seen, decoding⟩
      · exact .inr ⟨_, _, made.cons seen, failed⟩
      · exact .inl ⟨_, _, made.cons seen, decoding⟩
    · refine .inl ⟨n, w, made.noTransferTo moved.record, ?_⟩
      rw [moved.block]
      exact decoding.withAgents _ _ _ _ _ _
  · exact absurd failed.1 busy

theorem State.EncodeCounts.step (counts : s.EncodeCounts before) (busy : s.phase ≠ Phase.idle)
    (spared : s.turns.all Turn.sparesEncode = true) (h : step s = .next t) :
    t.EncodeCounts before := by
  rcases counts with ⟨n, r, made, encoding⟩ | ⟨idle, -⟩
  · rcases step_spared_cases rfl busy spared h with ⟨i, code, run⟩ | moved
    · have encoding : s.popTurn.Encoding n r := encoding.withAgents _ _ _ _ _ _
      rcases encoding.exec code busy run with
        ⟨b, seen, encoding⟩ | ⟨-, idle, notDone, -⟩ | ⟨x, y, px, seen, encoding⟩
      · exact .inl ⟨_, _, made.cons seen, encoding⟩
      · exact .inr ⟨idle, notDone⟩
      · exact .inl ⟨_, _, made.cons seen, encoding⟩
    · refine .inl ⟨n, r, made.noTransferTo moved.record, ?_⟩
      rw [moved.block]
      exact encoding.withAgents _ _ _ _ _ _
  · exact absurd idle busy

theorem State.startEncode_encodeCounts (s : State) : s.startEncode.EncodeCounts s.trace := by
  by_cases passes : s.fmtid = 8#32 ∧ s.width.toNat % 8 = 0 ∧ s.height.toNat % 8 = 0
  · obtain ⟨format, width, height⟩ := passes
    exact .inl ⟨0, 0, ⟨[], s.startEncode_trace, rfl⟩,
      State.startEncode_encoding format width height⟩
  · refine .inr ?_
    rw [State.startEncode_eq]
    split
    · exact ⟨rfl, rfl⟩
    split
    · exact ⟨rfl, rfl⟩
    split
    · exact ⟨rfl, rfl⟩
    next format width height =>
    exact absurd ⟨not_not.mp format, not_not.mp width, not_not.mp height⟩ passes

theorem decode_counts {n : Nat}
    (run : runOperation Turn.sparesDecode n s.startDecode = some t) : t.DecodeCounts s.trace :=
  runOperation_induct Turn.sparesDecode (State.DecodeCounts s.trace)
    (fun _ _ counts busy spared h => counts.step busy spared h) n _ t run
    (.inl ⟨0, 0, ⟨[], rfl, rfl⟩, s.startDecode_decoding⟩)

theorem encode_counts {n : Nat}
    (run : runOperation Turn.sparesEncode n s.startEncode = some t) : t.EncodeCounts s.trace :=
  runOperation_induct Turn.sparesEncode (State.EncodeCounts s.trace)
    (fun _ _ counts busy spared h => counts.step busy spared h) n _ t run
    s.startEncode_encodeCounts

end

/-- Settles O56: at the end of the operation the registers tell its good end, or which error it
was. -/
theorem transferCounts : Obligations.TransferCounts := by
  unfold Obligations.TransferCounts
  refine fun n s t => ⟨fun run idle => ?_, fun _ run idle done => ?_⟩
  · rcases decode_counts run with ⟨n, w, made, decoding⟩ | ⟨n, w, made, failed⟩
    all_goals
      obtain ⟨new, grown, counts⟩ := made
      simp only [tally, Tally.mk.injEq] at counts
      obtain ⟨ins, bytes, outs, writes, reads⟩ := counts
      refine ⟨new, grown, outs, reads, ?_⟩
    · cases decoding with
      | header here => exact absurd (here.1.symm.trans idle) (by decide)
      | padding here => exact absurd (here.1.symm.trans idle) (by decide)
      | fill here => exact absurd (here.1.symm.trans idle) (by decide)
      | drain here => exact absurd (here.1.symm.trans idle) (by decide)
      | ended here total pixels =>
        obtain ⟨-, -, noError⟩ := here
        simp [noError, ins, writes, total, pixels]
      | failed e here check total =>
        obtain ⟨-, notDone, code⟩ := here
        cases e with
        | ioError => exact absurd rfl check
        | _ => simp [notDone, code, Error.code, ins, total, Error.insBefore]
    · obtain ⟨-, notDone, code⟩ := failed
      simp [notDone, code, Error.code, ins, bytes]
  · rcases encode_counts run with ⟨n, r, made, encoding⟩ | ⟨-, notDone⟩
    · obtain ⟨new, grown, counts⟩ := made
      simp only [tally, Tally.mk.injEq] at counts
      obtain ⟨ins, bytes, outs, writes, reads⟩ := counts
      obtain ⟨-, total, pixels⟩ := encoding.of_idle idle
      exact ⟨new, grown, ins, writes, outs.trans total, reads.trans pixels⟩
    · exact absurd (notDone.symm.trans done) (by decide)

end Sys2Proof.Machine
end

section
/-! PROOF. What the operations of the sequencer leave alone: the moves to come, `rst`, and of the
sink all but the answer they use up (R55, R250). -/

namespace Sys2Proof.Machine

/-- The moves to come, the wire `rst` and the sink. -/
def State.surroundings (s : State) : List Turn × Bool × Sink := (s.turns, s.rst, s.sink)

section
variable (s : State)

theorem State.startBlocks_surroundings (p : BitVec 4) :
    (s.startBlocks p).surroundings = s.surroundings := by
  rcases s.startBlocks_cases p with ⟨-, finish⟩ | ⟨-, -, start, -⟩
  · rw [finish]; rfl
  · rw [start]; rfl

theorem State.nextBlock_surroundings (p : BitVec 4) :
    (s.nextBlock p).surroundings = s.surroundings := by
  rcases s.nextBlock_cases p with ⟨-, -, right⟩ | ⟨-, -, -, up⟩ | ⟨-, -, finish⟩
  · rw [right]; rfl
  · rw [up]; rfl
  · rw [finish]; rfl

theorem State.nextInBlock_surroundings (p : BitVec 4) :
    (s.nextInBlock p).surroundings = s.surroundings := by
  unfold State.nextInBlock
  split <;> rfl

theorem State.nextInDrain_surroundings (p : BitVec 4) :
    (s.nextInDrain p).surroundings = s.surroundings := by
  unfold State.nextInDrain
  split
  · rfl
  · exact s.nextBlock_surroundings p

theorem State.paddingComplete_surroundings : s.paddingComplete.surroundings = s.surroundings := by
  rcases s.paddingComplete_cases with ⟨-, width⟩ | ⟨-, -, height⟩ | ⟨-, -, start⟩
  · rw [width]; rfl
  · rw [height]; rfl
  · rw [start]; exact s.startBlocks_surroundings _

theorem paddingByteIn_surroundings : (paddingByteIn s).surroundings = s.surroundings := by
  rw [paddingByteIn_eq]
  split
  · exact State.paddingComplete_surroundings _
  · rfl

theorem headerByteOut_surroundings : (headerByteOut s).surroundings = s.surroundings := by
  unfold headerByteOut
  split
  · rfl
  · exact s.startBlocks_surroundings _

theorem fieldPayoff_surroundings (v : Word) :
    (fieldPayoff v s).state.surroundings = s.surroundings := by
  rw [fieldPayoff_eq]
  split
  · rfl
  split
  · rfl
  split
  · rfl
  · exact State.paddingComplete_surroundings _

theorem completeField_surroundings (n : Nat) (v : Word) :
    (completeField n v s).state.surroundings = s.surroundings := by
  unfold completeField
  split
  · unfold fieldMagic
    split <;> rfl
  split
  · unfold fieldFmtid
    split <;> rfl
  iterate 3
    split
    · rfl
  split
  · exact fieldPayoff_surroundings s v
  · rfl

theorem countHeaderByte_surroundings (k : BitVec 7) (f : Flow) :
    (countHeaderByte k f).surroundings = f.state.surroundings := by
  cases f with
  | goesOn s =>
    simp only [countHeaderByte]
    split <;> rfl
  | raised s => rfl

theorem headerByteIn_surroundings (b : Byte) :
    (headerByteIn b s).surroundings = s.surroundings := by
  unfold headerByteIn
  simp only [countHeaderByte_surroundings]
  split
  · exact completeField_surroundings _ _ _
  · rfl

/-- R112: the command leads to E_HDR or to an error. -/
theorem State.startEncode_surroundings : s.startEncode.surroundings = s.surroundings := by
  rw [State.startEncode_eq]
  split
  · rfl
  split
  · rfl
  split <;> rfl

end

section
variable {s t : State}

/-- Every operation of the sequencer; an OUT transfer uses up an answer of the sink. -/
theorem exec_surroundings {i : Instr} {p : BitVec 4} (code : encode i = .phase p)
    (h : exec i s = .next t) :
    t.surroundings = s.surroundings ∨ t.surroundings = (s.turns, s.rst, Sink.rest s.sink) := by
  cases i with
  | nop | decode | encode | fmtA8 => cases code
  | stepDHdr =>
    rcases exec_in_cases s with ⟨b, rest, -, ok, -, -⟩ | ⟨rest, -, fail, -, -⟩
    · cases ok.symm.trans h
      exact .inl (headerByteIn_surroundings _ b)
    · cases fail.symm.trans h
      exact .inl rfl
  | stepDPad =>
    rcases exec_in_cases s with ⟨b, rest, -, -, ok, -⟩ | ⟨rest, -, -, fail, -⟩
    · cases ok.symm.trans h
      exact .inl (paddingByteIn_surroundings _)
    · cases fail.symm.trans h
      exact .inl rfl
  | stepDFill =>
    rcases exec_in_cases s with ⟨b, rest, -, -, -, ok⟩ | ⟨rest, -, -, -, fail⟩
    · cases ok.symm.trans h
      exact .inl (State.nextInBlock_surroundings _ _)
    · cases fail.symm.trans h
      exact .inl rfl
  | stepDDrain =>
    cases (exec_dDrain s).symm.trans h
    exact .inl (State.nextInDrain_surroundings _ _)
  | stepEHdr =>
    rcases exec_eHdr_cases s with ⟨-, ok⟩ | ⟨-, fail⟩
    · cases ok.symm.trans h
      exact .inr (headerByteOut_surroundings _)
    · cases fail.symm.trans h
      exact .inr rfl
  | stepEGather =>
    cases (exec_eGather s).symm.trans h
    exact .inl (State.nextInBlock_surroundings _ _)
  | stepEEmit =>
    rcases exec_eEmit_cases s with ⟨-, ok⟩ | ⟨-, fail⟩
    · cases ok.symm.trans h
      exact .inr (State.nextInDrain_surroundings _ _)
    · cases fail.symm.trans h
      exact .inr rfl

end

end Sys2Proof.Machine
end

section
/-! PROOF. With sequencer turns only, an operation runs to its end (R72, R263). -/

namespace Sys2Proof.Machine

section
variable {s t : State}

/-- R120: an idle block lets its sequencer turns pass. -/
theorem run_of_idle (n : Nat) (idle : s.phase = Phase.idle)
    (moves : s.turns = List.replicate n .sequencer) :
    Host.Core.run Sys2Proof.core n s = .next { s with turns := [] } := by
  induction n generalizing s with
  | zero => rw [run_zero, ← show s.turns = [] from moves]
  | succ n ih =>
    rw [run_next n s _ ((idleBlockTakesNoStep s (List.replicate n .sequencer)).1 idle moves)]
    exact ih idle rfl

/-- What an argument that an operation ends needs: a property with a count that every operation of
the sequencer carries on and increases, and that keeps the count of a running block below a bound.
-/
structure Advances (P : Nat → State → Prop) (bound : Nat) : Prop where
  bounded : ∀ m s, P m s → s.phase ≠ Phase.idle → m < bound
  legal : ∀ m s, P m s → s.phase ≠ Phase.idle → ∃ i, encode i = .phase s.phase
  withTurns : ∀ m s turns, P m s → P m { s with turns := turns }
  carriedOn : ∀ m s t i, P m s → s.phase ≠ Phase.idle → encode i = .phase s.phase →
    exec i s = .next t → P (m + 1) t

/-- R263: the operation ends before the count reaches the bound. -/
theorem Advances.run_idle {P : Nat → State → Prop} {bound : Nat} (advances : Advances P bound)
    (fuel : Nat) {m : Nat} (holds : P m s) (released : s.rst = false)
    (moves : s.turns = List.replicate fuel .sequencer) (enough : bound ≤ m + fuel) :
    ∃ t, Host.Core.run Sys2Proof.core fuel s = .next t ∧ t.phase = Phase.idle ∧ ∃ m, P m t := by
  induction fuel generalizing s m with
  | zero =>
    refine ⟨s, run_zero s, ?_, m, holds⟩
    by_contra busy
    exact absurd (advances.bounded m s holds busy) (by omega)
  | succ fuel ih =>
    by_cases idle : s.phase = Phase.idle
    · exact ⟨_, run_of_idle _ idle moves, idle, m, advances.withTurns m s [] holds⟩
    obtain ⟨i, code⟩ := advances.legal m s holds idle
    obtain ⟨t, runs⟩ := exec_is_next i s.popTurn
    have next : step s = .next t := by
      rw [step_of_pending (State.pending_sequencer released idle moves)
        (code ▸ decodeCode_encode i), runs]
    have kept : t.turns = s.turns.tail ∧ t.rst = s.rst := by
      rcases exec_surroundings code runs with same | same
      all_goals
        simp only [State.surroundings, Prod.mk.injEq] at same
        exact ⟨same.1, same.2.1⟩
    rw [run_next fuel s t next]
    refine ih (advances.carriedOn m s.popTurn t i (advances.withTurns m s _ holds) idle code runs)
      (kept.2.trans released) ?_ (by omega)
    rw [kept.1, moves]
    rfl

/-! ### The counts of R262 advance -/

/-- R24: an image has fewer than 2^64 pixels. -/
theorem State.InBlocks.group_bound (blocks : s.InBlocks) : 64 * s.group + 64 < 2 ^ 65 := by
  have inside := blocks.group_lt
  have size := blocks.payloadSize_eq
  have pixels : s.payloadSize < 2 ^ 32 * 2 ^ 32 :=
    Nat.mul_lt_mul'' s.width.isLt s.height.isLt
  omega

theorem State.Decoding.bounded {start n w : Nat} (decoding : s.Decoding start n w)
    (busy : s.phase ≠ Phase.idle) : n + w < start + 2 ^ 67 := by
  have offset := s.payoff.isLt
  have index := s.idx.isLt
  cases decoding with
  | header here count format ins writes => omega
  | padding here format more ins writes => omega
  | fill here blocks ins writes =>
    have := blocks.group_bound
    omega
  | drain here blocks ins writes =>
    have := blocks.group_bound
    omega
  | ended here => exact absurd here.1 busy
  | failed e here => exact absurd here.1 busy

theorem State.Encoding.bounded {n r : Nat} (encoding : s.Encoding n r)
    (busy : s.phase ≠ Phase.idle) : n + r < 2 ^ 67 := by
  have count := s.hcnt.isLt
  have index := s.idx.isLt
  cases encoding with
  | header here format width height outs reads => omega
  | gather here blocks outs reads =>
    have := blocks.group_bound
    omega
  | emit here blocks outs reads =>
    have := blocks.group_bound
    omega
  | ended here => exact absurd here.1 busy

theorem State.Decoding.legal {start n w : Nat} (decoding : s.Decoding start n w)
    (busy : s.phase ≠ Phase.idle) : ∃ i, encode i = .phase s.phase := by
  cases decoding with
  | header here => exact ⟨.stepDHdr, congrArg _ here.1.symm⟩
  | padding here => exact ⟨.stepDPad, congrArg _ here.1.symm⟩
  | fill here => exact ⟨.stepDFill, congrArg _ here.1.symm⟩
  | drain here => exact ⟨.stepDDrain, congrArg _ here.1.symm⟩
  | ended here => exact absurd here.1 busy
  | failed e here => exact absurd here.1 busy

theorem State.Encoding.legal {n r : Nat} (encoding : s.Encoding n r)
    (busy : s.phase ≠ Phase.idle) : ∃ i, encode i = .phase s.phase := by
  cases encoding with
  | header here => exact ⟨.stepEHdr, congrArg _ here.1.symm⟩
  | gather here => exact ⟨.stepEGather, congrArg _ here.1.symm⟩
  | emit here => exact ⟨.stepEEmit, congrArg _ here.1.symm⟩
  | ended here => exact absurd here.1 busy

end

/-- A DECODE or an ENCODE after `m` transfers, or an idle block. -/
def State.Operating (start m : Nat) (s : State) : Prop :=
  (∃ n w, n + w = m ∧ s.Decoding start n w) ∨ (∃ n r, n + r = m ∧ s.Encoding n r) ∨
  s.phase = Phase.idle

theorem operating_advances (start : Nat) : Advances (State.Operating start) (start + 2 ^ 67) where
  bounded := by
    rintro m s (⟨n, w, rfl, decoding⟩ | ⟨n, r, rfl, encoding⟩ | idle) busy
    · exact decoding.bounded busy
    · exact Nat.lt_add_left _ (encoding.bounded busy)
    · exact absurd idle busy
  legal := by
    rintro m s (⟨n, w, -, decoding⟩ | ⟨n, r, -, encoding⟩ | idle) busy
    · exact decoding.legal busy
    · exact encoding.legal busy
    · exact absurd idle busy
  withTurns := by
    rintro m s turns (⟨n, w, sum, decoding⟩ | ⟨n, r, sum, encoding⟩ | idle)
    · exact .inl ⟨n, w, sum, decoding.withAgents _ _ _ _ _ _⟩
    · exact .inr (.inl ⟨n, r, sum, encoding.withAgents _ _ _ _ _ _⟩)
    · exact .inr (.inr idle)
  carriedOn := by
    rintro m s t i (⟨n, w, rfl, decoding⟩ | ⟨n, r, rfl, encoding⟩ | idle) busy code run
    · rcases decoding.exec code busy run with ⟨b, -, next⟩ | ⟨-, failed⟩ | ⟨x, y, px, -, next⟩
      · exact .inl ⟨_, _, by omega, next⟩
      · exact .inr (.inr failed.1)
      · exact .inl ⟨_, _, by omega, next⟩
    · rcases encoding.exec code busy run with ⟨b, -, next⟩ | ⟨-, failed⟩ | ⟨x, y, px, -, next⟩
      · exact .inr (.inl ⟨_, _, by omega, next⟩)
      · exact .inr (.inr failed.1)
      · exact .inr (.inl ⟨_, _, by omega, next⟩)
    · exact absurd idle busy

/-- R38: every state with the invariant is idle or some way into an operation. In D_PAD the
invariant does not bound SKIP by PAYOFF, so the count there starts at SKIP. -/
theorem State.Inv.operating {s : State} (inv : s.Inv) : ∃ start m, s.Operating start m := by
  have legal := inv.phaseLegal
  have phases : s.phase = Phase.idle ∨ s.phase = Phase.dHdr ∨ s.phase = Phase.dPad ∨
      s.phase = Phase.dFill ∨ s.phase = Phase.dDrain ∨ s.phase = Phase.eHdr ∨
      s.phase = Phase.eGather ∨ s.phase = Phase.eEmit := by
    bv_omega
  by_cases idle : s.phase = Phase.idle
  · exact ⟨0, 0, .inr (.inr idle)⟩
  have clear := inv.clear idle
  have here {p : BitVec 4} (phase : s.phase = p) : s.isIn p :=
    ⟨phase, clear.notDone, clear.noError⟩
  have a8 (format : resolve s.fmtid = some .a8) : s.fmtid = 8#32 := (resolve_some _ _).mp format
  rcases phases.resolve_left idle with phase | phase | phase | phase | phase | phase | phase
  · exact ⟨0, _, .inl ⟨_, _, rfl, .header (here phase) (inv.headerCount phase)
      (fun read => a8 (inv.formatRead (.inl ⟨phase, read⟩))) rfl rfl⟩⟩
  · exact ⟨s.skip.toNat, _, .inl ⟨s.payoff.toNat, _, rfl, .padding (here phase)
      (a8 (inv.formatRead (.inr (.inl phase)))) (inv.skipRange phase).1 (Nat.add_comm _ _) rfl⟩⟩
  · exact ⟨0, _, .inl ⟨_, _, rfl, .fill (here phase) (inv.inBlocks (by simp [phase])) rfl rfl⟩⟩
  · exact ⟨0, _, .inl ⟨_, _, rfl, .drain (here phase) (inv.inBlocks (by simp [phase])) rfl rfl⟩⟩
  · obtain ⟨width, height⟩ := inv.encodeDims phase
    exact ⟨0, _, .inr (.inl ⟨_, _, rfl, .header (here phase)
      (inv.formatRead (.inr (.inr phase))) width height rfl rfl⟩)⟩
  · exact ⟨0, _, .inr (.inl ⟨_, _, rfl, .gather (here phase) (inv.inBlocks (by simp [phase])) rfl
      rfl⟩)⟩
  · exact ⟨0, _, .inr (.inl ⟨_, _, rfl, .emit (here phase) (inv.inBlocks (by simp [phase])) rfl
      rfl⟩)⟩

/-- R263, R72: whatever the ports answer. -/
theorem State.Inv.run_idle {s : State} (inv : s.Inv) (released : s.rst = false) :
    ∃ (n : Nat) (t : State), Host.Core.run Sys2Proof.core n
      { s with turns := List.replicate n .sequencer } = .next t ∧ t.phase = Phase.idle := by
  obtain ⟨start, m, operating⟩ := inv.operating
  have advances := operating_advances start
  obtain ⟨t, run, idle, -⟩ := advances.run_idle (start + 2 ^ 67)
    (advances.withTurns m s (List.replicate (start + 2 ^ 67) .sequencer) operating) released rfl
    (Nat.le_add_left _ _)
  exact ⟨_, t, run, idle⟩

/-! ### An ENCODE whose bytes are all accepted -/

/-- The sink accepts every byte to come (R213). -/
def Sink.Accepts (k : Sink) : Prop := (∀ a ∈ k.answers, a = .ok) ∧ k.thereafter = .ok

theorem Sink.Accepts.next {k : Sink} (accepts : Sink.Accepts k) : Sink.next k = .ok := by
  obtain ⟨answers, thereafter⟩ := accepts
  cases h : k.answers with
  | nil => simp [Sink.next, h, thereafter]
  | cons a rest => simpa [Sink.next, h] using answers a (by simp [h])

theorem Sink.Accepts.rest {k : Sink} (accepts : Sink.Accepts k) : Sink.Accepts (Sink.rest k) :=
  ⟨fun a later => accepts.1 a (List.mem_of_mem_tail later), accepts.2⟩

/-- An ENCODE after `m` transfers, into such a sink. -/
def State.EncodingAccepted (m : Nat) (s : State) : Prop :=
  Sink.Accepts s.sink ∧ ∃ n r, n + r = m ∧ s.Encoding n r

theorem encodingAccepted_advances : Advances State.EncodingAccepted (2 ^ 67) where
  bounded := by
    rintro m s ⟨-, n, r, rfl, encoding⟩ busy
    exact encoding.bounded busy
  legal := by
    rintro m s ⟨-, n, r, -, encoding⟩ busy
    exact encoding.legal busy
  withTurns := by
    rintro m s turns ⟨accepts, n, r, sum, encoding⟩
    exact ⟨accepts, n, r, sum, encoding.withAgents _ _ _ _ _ _⟩
  carriedOn := by
    rintro m s t i ⟨accepts, n, r, rfl, encoding⟩ busy code run
    have still : Sink.Accepts t.sink := by
      rcases exec_surroundings code run with same | same
      all_goals
        simp only [State.surroundings, Prod.mk.injEq] at same
        rw [same.2.2]
      · exact accepts
      · exact accepts.rest
    rcases encoding.exec code busy run with ⟨b, -, next⟩ | ⟨refused, -⟩ | ⟨x, y, px, -, next⟩
    · exact ⟨still, _, _, by omega, next⟩
    · cases accepts.next.symm.trans refused
    · exact ⟨still, _, _, by omega, next⟩

/-- R213: an ENCODE whose checks pass, into a sink that accepts every byte, ends well. -/
theorem run_startEncode_done {s : State} (released : s.rst = false) (format : s.fmtid = 8#32)
    (width : s.width.toNat % 8 = 0) (height : s.height.toNat % 8 = 0)
    (accepts : Sink.Accepts s.sink) (moves : s.turns = List.replicate (2 ^ 67) .sequencer) :
    ∃ t : State, Host.Core.run Sys2Proof.core (2 ^ 67) s.startEncode = .next t ∧ t.isDone := by
  have kept := s.startEncode_surroundings
  simp only [State.surroundings, Prod.mk.injEq] at kept
  obtain ⟨turns, rst, sink⟩ := kept
  obtain ⟨t, run, idle, m, -, n, r, -, encoding⟩ := encodingAccepted_advances.run_idle (2 ^ 67)
    ⟨sink ▸ accepts, 0, 0, rfl, State.startEncode_encoding format width height⟩
    (rst.trans released) (turns.trans moves) (Nat.le_add_left _ _)
  exact ⟨t, run, (encoding.of_idle idle).1⟩

end Sys2Proof.Machine
end

section
/-! PROOF. A DECODE of a good file runs to its good end (R125, R142, R263). -/

namespace Sys2Proof.Machine

/-! ### The seven fields of the file -/

theorem fieldBytes_u32 (b0 b1 b2 b3 : Byte) :
    fieldBytes (u32 b0 b1 b2 b3) = [b0, b1, b2, b3] := by
  simp only [fieldBytes, List.cons.injEq, and_true]
  refine ⟨?_, ?_, ?_, ?_⟩
  all_goals
    ext i hi
    simp [byteOf, u32]
    grind

/-- R82: four bytes of the file are the bytes of a field. -/
theorem drop_eq_fieldBytes_append {file : List Byte} {f : Nat} (inside : f + 4 ≤ file.length) :
    file.drop f = fieldBytes (fileField file f) ++ file.drop (f + 4) := by
  rw [fileField, fieldBytes_u32, List.drop_eq_getElem_cons (by omega : f < file.length),
    List.drop_eq_getElem_cons (by omega : f + 1 < file.length),
    List.drop_eq_getElem_cons (by omega : f + 1 + 1 < file.length),
    List.drop_eq_getElem_cons (by omega : f + 1 + 1 + 1 < file.length)]
  simp (disch := omega) only [List.getD_eq_getElem]
  rfl

/-- R82: a file begins with its seven fields. -/
theorem eq_fields_append {file : List Byte} (whole : 28 ≤ file.length) :
    file = ([0, 4, 8, 12, 16, 20, 24].map (fileField file)).flatMap fieldBytes ++ file.drop 28 := by
  have field (f : Nat) (inside : f + 4 ≤ 28) := drop_eq_fieldBytes_append (inside.trans whole)
  calc file
    _ = file.drop 0 := rfl
    _ = _ := by
      rw [field 0 (by omega), field 4 (by omega), field 8 (by omega), field 12 (by omega),
        field 16 (by omega), field 20 (by omega), field 24 (by omega)]
      simp only [List.map_cons, List.map_nil, List.flatMap_cons, List.flatMap_nil,
        List.append_assoc, List.append_nil]

section
variable {s : State} {rest : List InAnswer} {more : List Turn} {w h reserved p : Word}

/-- The block when only the last field is still to be read (R138). -/
structure State.OffsetNext (s : State) (w h : Word) (rest : List InAnswer) (more : List Turn) :
    Prop where
  here : s.isIn Phase.dHdr
  released : s.rst = false
  count : s.hcnt = 24#7
  format : s.fmtid = 8#32
  bits : s.pixbits = 8#32
  width : s.width = w
  height : s.height = h
  source : s.source = rest
  turns : s.turns = more

/-- R132 to R137: six fields that pass their checks. The checks are on the fixed fields, so
evaluating `completeField` decides each of them for every `w`, `h` and `reserved`. -/
theorem run_to_offset (here : s.isIn Phase.dHdr) (released : s.rst = false) (count : s.hcnt = 0#7)
    (source : s.source =
      ([Config.magicWord, 8#32, w, h, 8#32, reserved].flatMap fieldBytes).map .byte ++ rest)
    (moves : s.turns = List.replicate 24 .sequencer ++ more) :
    ∃ t : State, t.OffsetNext w h rest more ∧
      Host.Core.run Sys2Proof.core 24 s = .next t := by
  obtain ⟨phase, clear⟩ := here
  refine ⟨_, ?next, Eq.trans (run_dHdr_goesOn 0 phase released source moves count (by omega) rfl) <|
    Eq.trans (run_dHdr_goesOn 1 phase released rfl rfl rfl (by omega) rfl) <|
    Eq.trans (run_dHdr_goesOn 2 phase released rfl rfl rfl (by omega) rfl) <|
    Eq.trans (run_dHdr_goesOn 3 phase released rfl rfl rfl (by omega) rfl) <|
    Eq.trans (run_dHdr_goesOn 4 phase released rfl rfl rfl (by omega) rfl) <|
    Eq.trans (run_dHdr_goesOn 5 phase released rfl rfl rfl (by omega) rfl) rfl⟩
  exact ⟨⟨phase, clear⟩, released, rfl, rfl, rfl, rfl, rfl, rfl, rfl⟩

/-- R138 to R140: the last field passes the checks that end the header. -/
theorem run_dHdr_payoff (phase : s.phase = Phase.dHdr) (released : s.rst = false)
    (count : s.hcnt = 24#7) (format : s.fmtid = 8#32) (bits : s.pixbits = 8#32)
    (offset : 28 ≤ p.toNat) (source : s.source = (fieldBytes p).map .byte ++ rest)
    (moves : s.turns = List.replicate 4 .sequencer ++ more) :
    Host.Core.run Sys2Proof.core 4 s = .next
      (if p.toNat = 28 then State.paddingComplete
        { s with
          acc := p, payoff := p, hcnt := 27#7, skip := 0#32, source := rest, turns := more
          trace := ((fieldBytes p).map .inByte).reverse ++ s.trace }
      else
        { s with
          acc := p, payoff := p, hcnt := 27#7, skip := BitVec.ofNat 32 (p.toNat - 28)
          source := rest, turns := more
          trace := ((fieldBytes p).map .inByte).reverse ++ s.trace, phase := Phase.dPad }) := by
  refine (run_dHdr_field phase released source moves count rfl (by decide)).trans (congrArg _ ?_)
  refine (headerByteIn_payoff _ rfl (by exact format)).trans ?_
  simp only [insertByte_four, u32_byteOf]
  rw [if_neg (not_not.mpr bits), if_neg (not_lt.mpr offset)]
  rfl

/-- The block when the bytes before the payload have been read (R141). -/
structure State.PayloadNext (s : State) (w h : Word) (rest : List InAnswer) (more : List Turn) :
    Prop where
  clear : s.done = false ∧ s.errcode = 0#4
  released : s.rst = false
  format : s.fmtid = 8#32
  width : s.width = w
  height : s.height = h
  source : s.source = rest
  turns : s.turns = more

/-- R138, R143: the last field and the padding it tells of. -/
theorem run_to_payload {padding : List Byte} (offset : p.toNat = 28 + padding.length)
    (next : s.OffsetNext w h ((fieldBytes p ++ padding).map .byte ++ rest)
      (List.replicate (padding.length + 4) .sequencer ++ more)) :
    ∃ t : State, t.PayloadNext w h rest more ∧
      Host.Core.run Sys2Proof.core (padding.length + 4) s = .next t.paddingComplete := by
  obtain ⟨⟨phase, clear⟩, released, count, format, bits, width, height, source, moves⟩ := next
  rw [List.map_append, List.append_assoc] at source
  rw [Nat.add_comm, List.replicate_add, List.append_assoc] at moves
  have header := run_dHdr_payoff phase released count format bits (by omega) source moves
  cases padding with
  | nil =>
    refine ⟨_, ?_, header.trans (congrArg _ (if_pos offset))⟩
    exact ⟨clear, released, format, width, height, rfl, rfl⟩
  | cons b bytes =>
    rw [List.length_cons] at offset
    have skip : (BitVec.ofNat 32 (p.toNat - 28)).toNat = (b :: bytes).length := by
      rw [BitVec.toNat_ofNat, List.length_cons]
      omega
    refine ⟨_, ?_, (run_add _ (header.trans (congrArg _ (if_neg (by omega))))).trans
      (run_dPad b bytes rfl released rfl rfl skip)⟩
    exact ⟨clear, released, format, width, height, rfl, rfl⟩

end

/-! ### The blocks of the payload -/

section
variable {s : State} {rest : List InAnswer}

/-- R183, R193: with the bytes of all blocks that are left, the blocks are decoded to the last. -/
theorem run_blocks (blocksLeft : Nat) {bs : List Byte} (here : s.isIn Phase.dFill)
    (first : s.idx = 0#6) (released : s.rst = false) (blocks : s.InBlocks)
    (left : 64 * s.group + 64 * blocksLeft = s.payloadSize) (full : bs.length = 64 * blocksLeft)
    (source : s.source = bs.map .byte ++ rest)
    (moves : s.turns = List.replicate (128 * blocksLeft) .sequencer) :
    ∃ t : State, Host.Core.run Sys2Proof.core (128 * blocksLeft) s = .next t ∧ t.isDone := by
  induction blocksLeft generalizing s bs with
  | zero =>
    have inside := blocks.group_lt
    rw [blocks.payloadSize_eq] at left
    omega
  | succ blocksLeft ih =>
    obtain ⟨phase, notDone, noError⟩ := here
    rw [Nat.mul_succ, Nat.add_comm, List.replicate_add] at moves
    rw [← List.take_append_drop 64 bs, List.map_append, List.append_assoc] at source
    have size : (bs.take 64).length = 64 := by
      rw [List.length_take]
      omega
    obtain ⟨blk, raster, trace, -, run⟩ := run_block phase first released size source moves
    rw [Nat.mul_succ]
    rcases blocks.nextBlock_group Phase.dFill with
      ⟨bX, bY, another, inside, group⟩ | ⟨finish, whole⟩
    · rw [another] at run inside group
      have next : 64 * (s.group + 1) + 64 * blocksLeft = s.payloadSize := by omega
      rw [← group] at next
      obtain ⟨t, goesOn, done⟩ := ih (bs := bs.drop 64) (s := { s with
          idx := _, bX := _, bY := _, phase := _, blk := blk, source := _, raster := raster
          turns := _, trace := trace })
        ⟨rfl, notDone, noError⟩ rfl released { inside with } next
        (by rw [List.length_drop]; omega) rfl rfl
      exact ⟨t, (run_add _ run).trans goesOn, done⟩
    · obtain rfl : blocksLeft = 0 := by omega
      rw [finish] at run
      exact ⟨_, run, rfl, rfl, noError⟩

/-- R141, R181: from the end of the header, as many sequencer turns as the payload takes lead to the
good end. -/
theorem run_payload {w h : Word} {payload : List Byte}
    (next : s.PayloadNext w h (payload.map .byte ++ rest)
      (List.replicate (2 * payload.length) .sequencer))
    (width : w.toNat % 8 = 0) (height : h.toNat % 8 = 0)
    (full : payload.length = w.toNat * h.toNat) :
    ∃ t : State, Host.Core.run Sys2Proof.core (2 * payload.length) s.paddingComplete = .next t ∧
      t.isDone := by
  obtain ⟨⟨notDone, noError⟩, released, format, rfl, rfl, source, turns⟩ := next
  have size : payload.length = s.payloadSize := full
  rw [State.paddingComplete_eq, if_neg (not_not.mpr width), if_neg (not_not.mpr height)]
  rcases State.startBlocks_group ((resolve_some _ .a8).mpr format) width height Phase.dFill with
    ⟨empty, finish⟩ | ⟨bX, bY, first, blocks, group⟩
  · rw [finish, size, empty]
    exact ⟨_, rfl, rfl, rfl, noError⟩
  · rw [first] at blocks group ⊢
    have whole := blocks.payloadSize_eq
    generalize s.height.toNat / 8 * (s.width.toNat / 8) = count at whole
    have bytes : payload.length = 64 * count := size.trans whole
    have fuel : 2 * payload.length = 128 * count := by omega
    rw [fuel] at turns ⊢
    refine run_blocks count ⟨rfl, notDone, noError⟩ rfl released blocks ?_ bytes source turns
    rw [group, whole, Nat.mul_zero, Nat.zero_add]

end

/-! ### The whole file -/

/-- R81, R85, R86: the parts of a file that holds its whole payload. -/
theorem exists_file_parts {file : List Byte} {offset size : Nat} (fields : 28 ≤ offset)
    (whole : offset + size ≤ file.length) :
    ∃ padding payload tail : List Byte, offset = 28 + padding.length ∧ payload.length = size ∧
      file = ([0, 4, 8, 12, 16, 20, 24].map (fileField file)).flatMap fieldBytes ++
        (padding ++ (payload ++ tail)) := by
  refine ⟨(file.drop 28).take (offset - 28), (file.drop offset).take size,
    (file.drop offset).drop size, ?_, ?_, ?_⟩
  · rw [List.length_take, List.length_drop]
    omega
  · rw [List.length_take, List.length_drop]
    omega
  · have rest : file.drop offset = (file.drop 28).drop (offset - 28) := by
      rw [List.drop_drop, Nat.add_sub_cancel' fields]
    rw [List.take_append_drop, rest, List.take_append_drop]
    exact eq_fields_append (by omega)

/-- R125, R263: as many sequencer turns as the file takes transfers lead from the command to the
good end. -/
theorem run_startDecode_done {file : List Byte} (magic : fileField file 0 = Config.magicWord)
    (format : fileField file 4 = 8#32) (width : (fileField file 8).toNat % 8 = 0)
    (height : (fileField file 12).toNat % 8 = 0) (bits : fileField file 16 = 8#32)
    (offset : 28 ≤ (fileField file 24).toNat)
    (whole : (fileField file 24).toNat + (fileField file 8).toNat * (fileField file 12).toNat
      ≤ file.length) :
    ∃ n, ∀ (s : State) (rest : List InAnswer), s.rst = false → s.source = file.map .byte ++ rest →
      s.turns = List.replicate n .sequencer →
      ∃ t : State, Host.Core.run Sys2Proof.core n s.startDecode = .next t ∧ t.isDone := by
  obtain ⟨padding, payload, tail, place, size, parts⟩ := exists_file_parts offset whole
  simp only [List.map_cons, List.map_nil, magic, format, bits] at parts
  generalize fileField file 8 = w at *
  generalize fileField file 12 = h at *
  generalize fileField file 20 = reserved at *
  generalize fileField file 24 = p at *
  refine ⟨2 * payload.length + (padding.length + 4 + 24), fun s rest released source moves => ?_⟩
  subst parts
  rw [Nat.add_comm, Nat.add_comm _ 24, List.replicate_add, List.replicate_add,
    List.append_assoc] at moves
  obtain ⟨u, last, fields⟩ := run_to_offset (s := s.startDecode) (w := w) (h := h)
    (reserved := reserved)
    (rest := (fieldBytes p ++ padding).map .byte ++ (payload.map .byte ++ (tail.map .byte ++ rest)))
    ⟨rfl, rfl, rfl⟩ released rfl (source.trans (by simp)) moves
  obtain ⟨v, next, header⟩ := run_to_payload place last
  obtain ⟨t, run, done⟩ := run_payload next width height size
  exact ⟨t, (run_add _ ((run_add _ fields).trans header)).trans run, done⟩

end Sys2Proof.Machine
end

section
/-! PROOF. Every operation ends (R263). -/

namespace Sys2Proof.Machine

/-- R111, R117: an idle block takes the command. -/
theorem step_decode_taken {s : State} {more : List Turn} (idle : s.phase = Phase.idle)
    (released : s.rst = false)
    (moves : s.turns = .host (.csrWrite 0x20#32 .word 1#32) :: more) :
    step s = .next (State.startDecode { s with turns := more }) :=
  (step_csrWrite_cmd released moves).trans (if_pos idle)

/-- R112, R117: an idle block takes the command. -/
theorem step_encode_taken {s : State} {more : List Turn} (idle : s.phase = Phase.idle)
    (released : s.rst = false)
    (moves : s.turns = .host (.csrWrite 0x20#32 .word 2#32) :: more) :
    step s = .next (State.startEncode { s with turns := more }) :=
  (step_csrWrite_cmd released moves).trans (if_pos idle)

/-- Settles O57: the counts of the transfers bound every operation; with a good file, and with a
sink that accepts every byte, no error is on the way. -/
theorem everyOperationEnds : Obligations.EveryOperationEnds := by
  unfold Obligations.EveryOperationEnds
  refine ⟨fun s inv released => inv.run_idle released, ?_, ?_⟩
  · intro s file rest idle released source magic format width height bits offset whole
    obtain ⟨n, ends⟩ := run_startDecode_done magic format width height bits offset whole
    obtain ⟨t, run, done⟩ :=
      ends { s with turns := List.replicate n .sequencer } rest released source rfl
    refine ⟨n, t, (run_next _ _ _ (step_decode_taken ?_ ?_ rfl)).trans run, done⟩
    · exact idle
    · exact released
  · intro s idle released format width height answers thereafter
    obtain ⟨t, run, done⟩ := run_startEncode_done
      (s := { s with turns := List.replicate (2 ^ 67) .sequencer }) released format width height
      ⟨answers, thereafter⟩ rfl
    refine ⟨2 ^ 67, t, (run_next _ _ _ (step_encode_taken ?_ ?_ rfl)).trans run, done⟩
    · exact idle
    · exact released

end Sys2Proof.Machine
end
